-- ==== Sys2Proof/Word.lean ====
section
/-!
DEFINITION. The words of CPXMUX and their widths (spec 00_scope.md R9, R10; 30_encoding.md R50, R53, R55).
Bit 0 is the least significant bit of every word and every quantity is unsigned (R10).
-/

namespace Sys2Proof

/-- One host register: a frame-buffer slot or the active count, 8 bits (R9 `REGW`, R14, R15). -/
abbrev Byte := BitVec 8

/-- The host command word `CW[12:0]`, format C (R50). -/
abbrev HostWord := BitVec 13

/-- The wire command word `WC[4:0]`, format W (R53). -/
abbrev WireWord := BitVec 5

/-- A topology entry as stored, format T (R55). -/
abbrev TopoWord := BitVec 6

/-- The wire index field, 3 bits; the wires are 0 to 4 (R9 `WIDXW`, R53). -/
abbrev WireIx := BitVec 3

/-- The host register address field `a`, 3 bits (R31, R32). -/
abbrev RegAddr := BitVec 3

/-- The slot cursor, 3 bits (R9 `CURW`, R16). -/
abbrev SlotIx := BitVec 3

end Sys2Proof
end

