-- ==== Sys2Proof/Machine/State.lean ====
section
/-!
DEFINITION. The state of CPXMUX (10_state.md R13: "the complete state of CPXMUX is the following, and nothing else"),
its reset values (R28) and the reasons a step can stop.
-/

namespace Sys2Proof.Machine

/-- The state of one wire: exactly three values (R12, R17). -/
inductive WireState where
  /-- High-impedance: the wire is released. -/
  | Z
  /-- Drive-low. -/
  | L
  /-- Drive-high. -/
  | H
deriving DecidableEq, Repr

/-- The 5-tuple of wire states `(W[0], ..., W[4])` (R17). -/
abbrev Pattern := Vector WireState 5

/-- The pattern with every wire released (R23). -/
def allZ : Pattern := #v[.Z, .Z, .Z, .Z, .Z]

/-- Why the machine faults: it never does, so there is no constructor. "CPXMUX raises no synchronous exception. No
operation, in any state, with any operand, faults, traps, aborts or returns an error" (R111). Safe. -/
inductive Fault where
deriving DecidableEq, Repr

/-- Why the model gives a step no meaning. -/
inductive Refusal where
  /-- The instruction has no meaning yet; raised by `exec` alone. Safe. -/
  | notModelled (mnemonic : String)
  /-- A Wire Driver command with a wire index 5, 6 or 7; raised by the Wire Driver's decoder and by the WSET meanings.
  "The model refuses such a command (gives it no meaning)" (R69). Safe. -/
  | wireOutsideDomain (w : WireIx)
  /-- A format-W word with `s = 0b01`; raised by the Wire Driver's decoder (R70). Safe. -/
  | reservedStateCode
  /-- TICK would read `FB[c]` with `c` in 5..7, which is outside the frame buffer; "this spec gives that no meaning"
  (R29). Raised by SELECT alone, and in no run from reset (R25, R113). Safe. -/
  | cursorOutsideFrameBuffer (c : SlotIx)
deriving DecidableEq, Repr

/-- The state. `fb`, `ac`, `cur` and `wires` are the registers of R13. `pending` is the "one extra component" of the
micro-step level (R20). `port` is no part of the block: it is what the outside will still present (R106). -/
structure State where
  /-- The frame buffer `FB[0..4]` (R14). -/
  fb : Vector Byte 5
  /-- The active count `AC` (R15). -/
  ac : Byte
  /-- The slot cursor `CUR` (R16). -/
  cur : SlotIx
  /-- The wire states `W[0..4]` (R17). -/
  wires : Pattern
  /-- The Wire Driver commands of the current tick not yet performed, oldest first (R20, R93): empty between ticks. -/
  pending : List WireWord
  /-- The command words the outside has still to present at the host command port, first one first, ticks and host
  writes interleaved in any order (R39, R106). DESIGN CHOICE, safe: notes/assumptions/1.md. -/
  port : List HostWord
deriving DecidableEq, Repr

/-- The machine right after RESET (R28): the dark frame, every wire released, no tick in progress, nothing presented. -/
def State.reset : State :=
  { fb := #v[0, 0, 0, 0, 0]
    ac := 1
    cur := 0
    wires := allZ
    pending := []
    port := [] }

end Sys2Proof.Machine
end

