-- ==== Sys2Proof/Machine/Flags.lean ====
section
/-!
DEFINITION. The conditions operations compute. "CPXMUX has no flags, no condition codes and no status bits. Nothing an
operation computes is kept except in the registers" (10_state.md R19), so no condition is stored in State: the one
comparison the engine makes is used in the same tick.
-/

namespace Sys2Proof.Machine

/-- `zext_8(slot) < ac`, unsigned, on the raw count with no guard (R58, R87, R94, R110). -/
def slotActive (slot : SlotIx) (ac : Byte) : Bool := (slot.zeroExtend 8).ult ac

end Sys2Proof.Machine
end

