-- ==== Sys2Proof/Config.lean ====
section
/-!
DEFINITION. What the spec leaves open and an implementation fixes: the contents of the topology table (R9, R18,
R74; 92_eei_decisions.md D5). The other two open parameters of R9, `T_MUX` and `PINMAP`, are read by no rule and
are not modelled (notes/assumptions/9.md).
-/

namespace Sys2Proof

/-- The 20 format-T words of the topology table `TOPO`, at address `k - 1` for LED identifier `k` (R55). The spec gives
no entry of it (R9: "OPEN"), so the constant has no body: nothing can evaluate it, and whatever is proved about the
machine holds for every table. `Machine.topo` reads it. -/
opaque Config.topoWords : Vector TopoWord 20

end Sys2Proof
end

