-- ==== Sys2Proof/Machine/Operands.lean ====
section
/-!
DEFINITION. How operands are formed from fields, and the arithmetic of the block (30_encoding.md R54 to R58,
42_multiplex_engine.md R89, R90, R110). Everything is unsigned.
-/

namespace Sys2Proof.Machine

/-- The wire-state code: bit 1 is the output enable, bit 0 the level (R54). -/
def WireState.code : WireState → BitVec 2
  | .Z => 0
  | .L => 2
  | .H => 3

/-- The state a code stands for; `0b01` is reserved (R54). -/
def wireStateOfCode (s : BitVec 2) : Option WireState :=
  match s with
  | 0 => some .Z
  | 1 => none
  | 2 => some .L
  | 3 => some .H

/-- The class of a frame-buffer byte (R56, R14). -/
inductive ByteClass where
  /-- `0x00`: "no LED". -/
  | noLed
  /-- `0x01` to `0x14`: the LED identifier `k`. -/
  | led (k : Nat)
  /-- `0x15` to `0xFF`: treated exactly as "no LED". -/
  | outOfRange
deriving DecidableEq, Repr

/-- The unsigned classification of a frame-buffer byte (R56). -/
def classify (v : Byte) : ByteClass :=
  if v.toNat = 0 then .noLed else if v.toNat ≤ 20 then .led v.toNat else .outOfRange

/-- The effective divisor `n` of the cursor's advance: 0 acts as 1, values above 5 as 5 (R89). -/
def effectiveDivisor (ac : Byte) : Nat :=
  if ac.toNat = 0 then 1 else if 5 < ac.toNat then 5 else ac.toNat

/-- `(slot + 1) mod n`: the sum is exact, "not reduced modulo 8 or anything else before the remainder is taken"
(R90, R110). -/
def nextCursor (slot : SlotIx) (ac : Byte) : SlotIx :=
  BitVec.ofNat 3 ((slot.toNat + 1) % effectiveDivisor ac)

end Sys2Proof.Machine
end

