-- ==== Sys2Proof/Machine/Topology.lean ====
section
/-!
DEFINITION. The LED Topology Map (41_topology_map.md): format T, the admissible tables, the decoder LOOKUP, the pattern
decoder PAIRDEC and its inverse. The table is a parameter of every definition here, with the proof that it is
admissible ("A model takes `TOPO` together with a proof of `TopoWF` as a configuration argument, and every claim
holds for every such table", R75); `topo` is the one the machine runs on.
-/

namespace Sys2Proof.Machine

/-- A topology entry: the wire to drive high and the wire to drive low (R74). -/
structure Entry where
  hi : WireIx
  lo : WireIx
deriving DecidableEq, Repr

/-- Format T: bits 5:3 are `hi`, bits 2:0 are `lo` (R55). -/
def entryOfWord (b : TopoWord) : Entry := ⟨b.extractLsb' 3 3, b.extractLsb' 0 3⟩

/-- Format T of an entry: `(hi << 3) + lo` (R55, R77). -/
def wordOfEntry (e : Entry) : TopoWord := e.hi ++ e.lo

/-- The well-formedness `TopoWF` of a table (R75): total by its type, every wire in 0..4, the two wires of an entry
distinct, no entry twice. -/
abbrev TopoWF (t : Vector Entry 20) : Prop :=
  (∀ k : Fin 20, t[k].hi.toNat < 5 ∧ t[k].lo.toNat < 5 ∧ t[k].hi ≠ t[k].lo) ∧
    ∀ j k : Fin 20, t[j] = t[k] → j = k

/-- An admissible topology table (R75). -/
structure Topo where
  /-- The entry of identifier `k` is at address `k - 1` (R55). -/
  table : Vector Entry 20
  wf : TopoWF table

/-- The reference table's entries (R77): "this spec's own invention, not the keychain's wiring". -/
def topoRefTable : Vector Entry 20 :=
  #v[⟨0, 1⟩, ⟨0, 2⟩, ⟨0, 3⟩, ⟨0, 4⟩, ⟨1, 0⟩, ⟨1, 2⟩, ⟨1, 3⟩, ⟨1, 4⟩, ⟨2, 0⟩, ⟨2, 1⟩,
    ⟨2, 3⟩, ⟨2, 4⟩, ⟨3, 0⟩, ⟨3, 1⟩, ⟨3, 2⟩, ⟨3, 4⟩, ⟨4, 0⟩, ⟨4, 1⟩, ⟨4, 2⟩, ⟨4, 3⟩]

/-- The reference table is admissible (R77). -/
theorem topoRefTable_wf : TopoWF topoRefTable := by decide

/-- The reference table `TOPO_REF`, for test vectors only (R77). -/
def topoRef : Topo := ⟨topoRefTable, topoRefTable_wf⟩

/-- The entries the configuration's 20 format-T words stand for (R55). -/
def configTable : Vector Entry 20 := Config.topoWords.map entryOfWord

/-- The machine's table `TOPO` (R18, R74): the configuration's, of which nothing is known but that it is admissible. An
inadmissible configuration is no CPXMUX, and the reference table stands in for it, so that every claim about `topo`
is a claim about every admissible table. DESIGN CHOICE, safe: notes/assumptions/3.md. -/
def topo : Topo :=
  if h : TopoWF configTable then ⟨configTable, h⟩ else topoRef

/-- `TOPO(k)`: the entry of identifier `k`, for `k` in 1..20; the range test comes before the subtraction
(R58 (v), R74, R110). -/
def Topo.entry (T : Topo) (k : Nat) : Option Entry :=
  if h : 1 ≤ k ∧ k ≤ 20 then some (T.table[k - 1]) else none

/-- `LOOKUP v`, total on all 256 values (R78): none for 0 and for 21 and above. -/
def lookup (T : Topo) (v : Byte) : Option Entry :=
  match classify v with
  | .noLed => none
  | .led k => T.entry k
  | .outOfRange => none

/-- The state of wire `w` in the pattern of a pair (R79). -/
def pairState (e : Entry) (w : WireIx) : WireState :=
  if w = e.hi then .H else if w = e.lo then .L else .Z

/-- `PAIRDEC (hi, lo)`: wire `hi` high, wire `lo` low, the others released (R79). -/
def pairdec (e : Entry) : Pattern :=
  #v[pairState e 0, pairState e 1, pairState e 2, pairState e 3, pairState e 4]

/-- `pattern(k) = PAIRDEC(TOPO(k))` for a valid identifier (R23, R79); all wires released for any other number. -/
def Topo.pattern (T : Topo) (k : Nat) : Pattern :=
  match T.entry k with
  | some e => pairdec e
  | none => allZ

/-- The LED identifiers, 1 to 20 (R8). -/
def ledIds : List Nat := [1, 2, 3, 4, 5, 6, 7, 8, 9, 10, 11, 12, 13, 14, 15, 16, 17, 18, 19, 20]

/-- `LED(hi, lo)`: the identifier whose entry is this pair (R80). The block never computes it. -/
def Topo.led (T : Topo) (e : Entry) : Option Nat := ledIds.find? fun k => T.entry k = some e

end Sys2Proof.Machine
end

