-- ==== Sys2Proof/Syntax.lean ====
section
/-!
DEFINITION. The operations of CPXMUX, one constructor per row of spec/opcode_table.json (R49). Fields that the
encoding ignores (`a` and `d` of IDLE, TICK and RESET, R50) are no part of an operation: words that differ only there
are "non-canonical spellings of the same operation" (R59).
-/

namespace Sys2Proof

/-- The operations of the host command space (format C) and of the wire command space (format W). -/
inductive Instr where
  /-- IDLE (R100): nothing happens. -/
  | idle
  /-- TICK (R85): one multiplex tick. -/
  | tick
  /-- WR_FB with `i = 0` (R101): write frame-buffer slot 0. -/
  | wrFb0 (v : Byte)
  /-- WR_FB with `i = 1` (R101). -/
  | wrFb1 (v : Byte)
  /-- WR_FB with `i = 2` (R101). -/
  | wrFb2 (v : Byte)
  /-- WR_FB with `i = 3` (R101). -/
  | wrFb3 (v : Byte)
  /-- WR_FB with `i = 4` (R101). -/
  | wrFb4 (v : Byte)
  /-- WR_AC (R102): write the active count. -/
  | wrAc (v : Byte)
  /-- WR_RSVD (R103): a write to address 6 (`b = 0`) or 7 (`b = 1`); `b` is bit 8 of the word, which the row
  leaves free. -/
  | wrRsvd (b : BitVec 1) (d : Byte)
  /-- RESET (R105). -/
  | reset
  /-- WSET_Z (R66): release wire `w`. -/
  | wsetZ (w : WireIx)
  /-- WSET_L (R67): drive wire `w` low. -/
  | wsetL (w : WireIx)
  /-- WSET_H (R68): drive wire `w` high. -/
  | wsetH (w : WireIx)
deriving DecidableEq, Repr

end Sys2Proof
end

