-- ==== Sys2Proof/WellFormed.lean ====
section
/-!
DEFINITION. Which terms of `Instr` are operations of the spec: the wire index of a Wire Driver command is 0 to 4
(R49, R53); "`w` in {5, 6, 7}" is outside the domain (R60, R69). Every other field admits every value of its width.
-/

namespace Sys2Proof

/-- A wire index names one of the five wires (R53). -/
def WireIx.inDomain (w : WireIx) : Bool := decide (w.toNat < 5)

/-- An instruction of the spec (R49). -/
def Instr.wellFormed : Instr → Bool
  | .idle => true
  | .tick => true
  | .wrFb0 _ => true
  | .wrFb1 _ => true
  | .wrFb2 _ => true
  | .wrFb3 _ => true
  | .wrFb4 _ => true
  | .wrAc _ => true
  | .wrRsvd _ _ => true
  | .reset => true
  | .wsetZ w => WireIx.inDomain w
  | .wsetL w => WireIx.inDomain w
  | .wsetH w => WireIx.inDomain w

end Sys2Proof
end

