-- ==== Sys2Proof/Decode.lean ====
section
/-!
DEFINITION. The decoders of the two command spaces and the encoder (30_encoding.md sections 2, 3 and 6).

Host command space (format C): total, no illegal word (R59). Wire command space (format W): 15 of the 32 words are
commands, the other 17 are rejected by name (R60).
-/

namespace Sys2Proof

/-- Why a format-W word is no command (R60). -/
inductive DecodeError where
  /-- Field `w` is 5, 6 or 7 (R69). -/
  | wireOutsideDomain (w : WireIx)
  /-- Field `s` is `0b01` (R70). -/
  | reservedStateCode
deriving DecidableEq, Repr

/-- Field `cmd`, bits 12:11 of format C (R50). -/
def HostWord.cmd (w : HostWord) : BitVec 2 := w.extractLsb' 11 2

/-- Field `a`, bits 10:8 of format C (R50). -/
def HostWord.addr (w : HostWord) : RegAddr := w.extractLsb' 8 3

/-- Field `d`, bits 7:0 of format C (R50). -/
def HostWord.data (w : HostWord) : Byte := w.extractLsb' 0 8

/-- Field `w`, bits 4:2 of format W (R53). -/
def WireWord.wire (w : WireWord) : WireIx := w.extractLsb' 2 3

/-- Field `s`, bits 1:0 of format W (R53, R54). -/
def WireWord.code (w : WireWord) : BitVec 2 := w.extractLsb' 0 2

/-- The `a` field under `cmd = 0b10` (R52). -/
def decodeWrite (a : RegAddr) (d : Byte) : Instr :=
  match a with
  | 0 => .wrFb0 d
  | 1 => .wrFb1 d
  | 2 => .wrFb2 d
  | 3 => .wrFb3 d
  | 4 => .wrFb4 d
  | 5 => .wrAc d
  | 6 => .wrRsvd 0 d
  | 7 => .wrRsvd 1 d

/-- Format C (R50, R51): every 13-bit word is an operation (R59). -/
def decodeHost (w : HostWord) : Instr :=
  match HostWord.cmd w with
  | 0 => .idle
  | 1 => .tick
  | 2 => decodeWrite (HostWord.addr w) (HostWord.data w)
  | 3 => .reset

/-- Format W (R53, R54): a wire index 0 to 4 and one of the three state codes. -/
def decodeWire (w : WireWord) : Except DecodeError Instr :=
  if WireIx.inDomain (WireWord.wire w) then
    match WireWord.code w with
    | 0 => .ok (.wsetZ (WireWord.wire w))
    | 1 => .error .reservedStateCode
    | 2 => .ok (.wsetL (WireWord.wire w))
    | 3 => .ok (.wsetH (WireWord.wire w))
  else .error (.wireOutsideDomain (WireWord.wire w))

/-- A word of one of the two command spaces (R49). -/
inductive CommandWord where
  /-- A format-C word, taken by the host command port. -/
  | host (w : HostWord)
  /-- A format-W word, taken by the Wire Driver. -/
  | wire (w : WireWord)
deriving DecidableEq, Repr

/-- The decoder of both command spaces. -/
def decode : CommandWord → Except DecodeError Instr
  | .host w => .ok (decodeHost w)
  | .wire w => decodeWire w

/-- A format-C word from its three fields (R50). -/
def hostWord (cmd : BitVec 2) (a : RegAddr) (d : Byte) : HostWord := cmd ++ a ++ d

/-- A format-W word from its two fields: `(w << 2) + s` (R53). -/
def wireWord (w : WireIx) (s : BitVec 2) : WireWord := w ++ s

/-- The canonical word of an operation: 0 in the ignored fields (R50 to R54). -/
def encode : Instr → CommandWord
  | .idle => .host (hostWord 0 0 0)
  | .tick => .host (hostWord 1 0 0)
  | .wrFb0 v => .host (hostWord 2 0 v)
  | .wrFb1 v => .host (hostWord 2 1 v)
  | .wrFb2 v => .host (hostWord 2 2 v)
  | .wrFb3 v => .host (hostWord 2 3 v)
  | .wrFb4 v => .host (hostWord 2 4 v)
  | .wrAc v => .host (hostWord 2 5 v)
  | .wrRsvd b d => .host (hostWord 2 (0b11#2 ++ b) d)
  | .reset => .host (hostWord 3 0 0)
  | .wsetZ w => .wire (wireWord w 0)
  | .wsetL w => .wire (wireWord w 2)
  | .wsetH w => .wire (wireWord w 3)

/-- Which command space a row of spec/opcode_table.json with `nbits` bits belongs to, and its word: a row of one byte is
a format-W row (5 bits), a wider one a format-C row (13 bits). A number with bits above the format's width is no word
of it (R62: both formats are fixed-length). -/
def tableWord (nbits w : Nat) : Option CommandWord :=
  if nbits ≤ 8 then
    if w < 32 then some (.wire (BitVec.ofNat 5 w)) else none
  else
    if w < 8192 then some (.host (BitVec.ofNat 13 w)) else none

/-- The instruction the decoder reads from a word numbered as spec/opcode_table.json numbers it. -/
def decodeTableWord (nbits w : Nat) : Option Instr :=
  match tableWord nbits w with
  | some c => match decode c with
    | .ok i => some i
    | .error _ => none
  | none => none

end Sys2Proof
end

