-- ==== Sys2Proof/Machine/Ops.lean ====
section
/-!
DEFINITION. The named operations over the registers and the wires (20_memory.md R31 to R37, 40_wire_driver.md R65).

There is no operation that takes an exception and none that returns from one: the block raises nothing (R111) and has
no trap entry (R120) and no trap return (R121).
-/

namespace Sys2Proof.Machine

/-- An outcome of this machine. -/
abbrev Result := Host.Outcome State Fault Refusal

/-- `MemRead(a, 1)`: the byte in the host register at address `a`; 0 to 4 are the frame buffer, 5 is the active count, and
6 and 7 hold no register (R31, R32). A read changes nothing (R36). -/
def readReg (a : RegAddr) (s : State) : Option Byte :=
  match a with
  | 0 => some s.fb[0]
  | 1 => some s.fb[1]
  | 2 => some s.fb[2]
  | 3 => some s.fb[3]
  | 4 => some s.fb[4]
  | 5 => some s.ac
  | 6 => none
  | 7 => none

/-- `MemWrite(a, 1, v)`: the byte goes to the register at `a` as it is, and nowhere else (R35); a write to address 6 or 7
is ignored (R37). -/
def writeReg (a : RegAddr) (v : Byte) (s : State) : State :=
  match a with
  | 0 => { s with fb := s.fb.set 0 v }
  | 1 => { s with fb := s.fb.set 1 v }
  | 2 => { s with fb := s.fb.set 2 v }
  | 3 => { s with fb := s.fb.set 3 v }
  | 4 => { s with fb := s.fb.set 4 v }
  | 5 => { s with ac := v }
  | 6 => s
  | 7 => s

/-- `FB[c]`, the engine's read of the slot at cursor `c`: nothing is there for `c` in 5..7 (R29, R87). -/
def readSlot (c : SlotIx) (s : State) : Option Byte :=
  if h : c.toNat < 5 then some s.fb[c.toNat] else none

/-- `set(wire, state)` on a pattern: that wire takes that state and the other four keep theirs (R65); a wire index 5, 6 or
7 is outside the driver's domain and is refused (R69). -/
def setWire (w : WireIx) (x : WireState) (p : Pattern) : Except Refusal Pattern :=
  if h : w.toNat < 5 then .ok (p.set w.toNat x) else .error (.wireOutsideDomain w)

/-- One Wire Driver command on the machine: it writes one wire and nothing else (R65 to R68). -/
def driveWire (w : WireIx) (x : WireState) (s : State) : Result :=
  match setWire w x s.wires with
  | .ok p => .next { s with wires := p }
  | .error r => .refused r

/-- RESET of the registers (R28, R105): "its result does not depend on the state before". No tick is in progress after
it; what the outside has still to present stays to be presented (DEDUCED: notes/assumptions/4.md). -/
def resetState (s : State) : State := { State.reset with port := s.port }

end Sys2Proof.Machine
end

