-- ==== Sys2Proof/Machine/WireDriver.lean ====
section
/-!
DEFINITION. The Wire Driver (40_wire_driver.md): the meanings of WSET_Z, WSET_L and WSET_H, and the commands the engine
gives it.
-/

namespace Sys2Proof.Machine

/-- WSET_Z: `W[w] <- Z` (R66). -/
def execWsetZ (w : WireIx) (s : State) : Result := driveWire w .Z s

/-- WSET_L: `W[w] <- L`, whatever else is driven (R67). -/
def execWsetL (w : WireIx) (s : State) : Result := driveWire w .L s

/-- WSET_H: `W[w] <- H` (R68). -/
def execWsetH (w : WireIx) (s : State) : Result := driveWire w .H s

/-- A command of the engine to the Wire Driver, `WSET(w, x)` (R65). -/
structure WireCmd where
  wire : WireIx
  state : WireState
deriving DecidableEq, Repr

/-- The format-W word of a command (R53, R93). -/
def wordOfCmd (c : WireCmd) : WireWord := wireWord c.wire c.state.code

/-- The operation a command is (R49). -/
def instrOfCmd (c : WireCmd) : Instr :=
  match c.state with
  | .Z => .wsetZ c.wire
  | .L => .wsetL c.wire
  | .H => .wsetH c.wire

/-- A list of commands performed "one after another in this order" (R93); refused at the first one outside the driver's domain
(R69). -/
def performCmds : List WireCmd → Pattern → Except Refusal Pattern
  | [], p => .ok p
  | c :: rest, p =>
    match setWire c.wire c.state p with
    | .ok q => performCmds rest q
    | .error r => .error r

end Sys2Proof.Machine
end

