-- ==== Sys2Proof/Machine/Engine.lean ====
section
/-!
DEFINITION. The Charlieplexing Multiplex Engine (42_multiplex_engine.md): TICK and its steps BLANK, SELECT, DRIVE and
ADVANCE, at the event level (`tick`, one indivisible transition) and at the micro-step level (`startTick`, which leaves
the tick's commands for the Wire Driver to perform one by one): "The spec describes the block at two levels" (R7).
-/

namespace Sys2Proof.Machine

/-- BLANK (R86): every wire is commanded to high-impedance, in ascending index (decision D14). -/
def blankCmds : List WireCmd := [⟨0, .Z⟩, ⟨1, .Z⟩, ⟨2, .Z⟩, ⟨3, .Z⟩, ⟨4, .Z⟩]

/-- SELECT (R87): the entry of the LED in slot `CUR`, if the slot is below the raw active count and holds a valid
identifier. The slot is read only then. -/
def select (T : Topo) (s : State) : Except Refusal (Option Entry) :=
  if slotActive s.cur s.ac then
    match readSlot s.cur s with
    | some v => .ok (lookup T v)
    | none => .error (.cursorOutsideFrameBuffer s.cur)
  else .ok none

/-- DRIVE (R88): the drive-high command, then the drive-low command (decision D14). -/
def driveCmds : Option Entry → List WireCmd
  | some e => [⟨e.hi, .H⟩, ⟨e.lo, .L⟩]
  | none => []

/-- The command trace of a tick: every blanking command before every drive command (R91, R93). -/
def tickTrace (sel : Option Entry) : List WireCmd := blankCmds ++ driveCmds sel

/-- TICK at the event level (R85): the trace performed on the wires, and the cursor advanced (R90); `AC` and `CUR` are
read once (R92). -/
def tick (T : Topo) (s : State) : Result :=
  match select T s with
  | .error r => .refused r
  | .ok sel =>
    match performCmds (tickTrace sel) s.wires with
    | .ok p => .next { s with wires := p, cur := nextCursor s.cur s.ac }
    | .error r => .refused r

/-- TICK (R85) on the machine's own topology table. -/
def execTick (s : State) : Result := tick topo s

/-- TICK at the micro-step level (R93): the engine reads its registers, advances the cursor and issues its trace as
format-W words; each word is then one micro-step of the Wire Driver. The cursor's write may stand anywhere among the
commands (R93), and here stands before them. -/
def startTick (T : Topo) (s : State) : Result :=
  match select T s with
  | .error r => .refused r
  | .ok sel =>
    .next { s with pending := s.pending ++ (tickTrace sel).map wordOfCmd, cur := nextCursor s.cur s.ac }

end Sys2Proof.Machine
end

