-- ==== Sys2Proof/Machine/HostPort.lean ====
section
/-!
DEFINITION. The host command port's operations other than TICK (43_host_port.md): IDLE, WR_FB, WR_AC, WR_RSVD, RESET.
No operation reads a register back to the host (R104).
-/

namespace Sys2Proof.Machine

/-- IDLE (R100): "Reads nothing, writes nothing: every register and every wire keeps its value". -/
def execIdle (s : State) : Result := .next s

/-- WR_FB with `i = 0`: `FB[0] <- v` (R101). -/
def execWrFb0 (v : Byte) (s : State) : Result := .next (writeReg 0 v s)

/-- WR_FB with `i = 1`: `FB[1] <- v` (R101). -/
def execWrFb1 (v : Byte) (s : State) : Result := .next (writeReg 1 v s)

/-- WR_FB with `i = 2`: `FB[2] <- v` (R101). -/
def execWrFb2 (v : Byte) (s : State) : Result := .next (writeReg 2 v s)

/-- WR_FB with `i = 3`: `FB[3] <- v` (R101). -/
def execWrFb3 (v : Byte) (s : State) : Result := .next (writeReg 3 v s)

/-- WR_FB with `i = 4`: `FB[4] <- v` (R101). -/
def execWrFb4 (v : Byte) (s : State) : Result := .next (writeReg 4 v s)

/-- WR_AC: `AC <- v`, any byte as given; the cursor is not touched (R102). -/
def execWrAc (v : Byte) (s : State) : Result := .next (writeReg 5 v s)

/-- WR_RSVD: a write to address 6 or 7, which is ignored (R37, R103). -/
def execWrRsvd (b : BitVec 1) (d : Byte) (s : State) : Result := .next (writeReg (0b11#2 ++ b) d s)

/-- RESET (R105): every register to its value of R28, in one step, from any state. -/
def execReset (s : State) : Result := .next (resetState s)

end Sys2Proof.Machine
end

