-- ==== Sys2Proof/Machine/Dispatch.lean ====
section
/-! DEFINITION. The dispatch of every operation to its meaning (30_encoding.md R49). -/

namespace Sys2Proof.Machine

def exec (i : Instr) (s : State) : Host.Outcome State Fault Refusal :=
  match i with
  | .idle => Sys2Proof.Machine.execIdle s
  | .tick => Sys2Proof.Machine.execTick s
  | .wrFb0 v => Sys2Proof.Machine.execWrFb0 v s
  | .wrFb1 v => Sys2Proof.Machine.execWrFb1 v s
  | .wrFb2 v => Sys2Proof.Machine.execWrFb2 v s
  | .wrFb3 v => Sys2Proof.Machine.execWrFb3 v s
  | .wrFb4 v => Sys2Proof.Machine.execWrFb4 v s
  | .wrAc v => Sys2Proof.Machine.execWrAc v s
  | .wrRsvd b d => Sys2Proof.Machine.execWrRsvd b d s
  | .reset => Sys2Proof.Machine.execReset s
  | .wsetZ w => Sys2Proof.Machine.execWsetZ w s
  | .wsetL w => Sys2Proof.Machine.execWsetL w s
  | .wsetH w => Sys2Proof.Machine.execWsetH w s

end Sys2Proof.Machine
end

