-- ==== Sys2Proof/Machine/Fetch.lean ====
section
/-!
DEFINITION. Which operation comes next. The Wire Driver's pending commands come first: "the port takes the next command
word only when the trace [...] has been performed" (60_exceptions.md R121). Then the port takes one command word per step
(43_host_port.md R106).
-/

namespace Sys2Proof.Machine

/-- The refusal of a word that is no command (R60, R69, R70). -/
def refusalOf : DecodeError → Refusal
  | .wireOutsideDomain w => .wireOutsideDomain w
  | .reservedStateCode => .reservedStateCode

/-- The next operation, with the state it is performed in (its word taken). Where nothing is presented neither context acts
on the block, which is what IDLE stands for (R100, R125; DEDUCED: notes/assumptions/5.md). -/
def fetch (s : State) : Except Refusal (Instr × State) :=
  match s.pending with
  | w :: rest =>
    match decodeWire w with
    | .ok i => .ok (i, { s with pending := rest })
    | .error e => .error (refusalOf e)
  | [] =>
    match s.port with
    | w :: rest => .ok (decodeHost w, { s with port := rest })
    | [] => .ok (.idle, s)

/-- A state in which the word is the next one fetched: a format-C word is presented at the port, with no tick in progress; a
format-W word is the Wire Driver's next command. -/
def present (c : CommandWord) (s : State) : State :=
  match c with
  | .host w => { s with port := w :: s.port, pending := [] }
  | .wire w => { s with pending := w :: s.pending }

end Sys2Proof.Machine
end

