-- ==== Sys2Proof/Machine/Step.lean ====
section
/-!
DEFINITION. One step of the machine, and where the host places an instruction.
-/

namespace Sys2Proof.Machine

/-- One step (R7, event level): the next operation is performed completely before the next word is taken (R106). -/
def step (s : State) : Host.Outcome State Fault Refusal :=
  match fetch s with
  | .ok (i, t) => exec i t
  | .error r => .refused r

/-- `s` with the instruction of a word, numbered as spec/opcode_table.json numbers it, where `step` fetches next. A number
that is no word of its format cannot be presented and changes nothing. -/
def State.withFetchWord (s : State) (nbits w : Nat) : State :=
  match tableWord nbits w with
  | some c => present c s
  | none => s

end Sys2Proof.Machine
end

