-- ==== Sys2Proof/Machine/Producer.lean ====
section
/-!
DEFINITION. The pseudo-instructions of 30_encoding.md R64, which the producer behind the host command port uses, and the
duties the spec lays on it (20_memory.md R44 to R46). They bind the host, not the block: nothing in the machine checks
them, and claims about the display take them as premises.
-/

namespace Sys2Proof.Machine

/-- `PUBLISH [v0, .., v(m-1)], n` with `m ≤ 5`: five slot writes in ascending order, 0 beyond the frame, and the count
last; "Always six words" (R64). -/
def publish (vs : List Byte) (n : Byte) : List Instr :=
  [.wrFb0 (vs.getD 0 0), .wrFb1 (vs.getD 1 0), .wrFb2 (vs.getD 2 0), .wrFb3 (vs.getD 3 0), .wrFb4 (vs.getD 4 0), .wrAc n]

/-- The published count `max(1, m)` of a frame of `m` LEDs (R46, R64). -/
def frameCount (vs : List Byte) : Byte := BitVec.ofNat 8 (max 1 vs.length)

/-- `PUBLISH [v0, .., v(m-1)]`, the count omitted (R64). -/
def publishFrame (vs : List Byte) : List Instr := publish vs (frameCount vs)

/-- `DARK`: `PUBLISH [], 1` (R64). -/
def dark : List Instr := publish [] 1

/-- `TICK * r`: `r` copies of TICK (R64). -/
def ticks (r : Nat) : List Instr := List.replicate r .tick

/-- The words a sequence of operations presents at the host command port; a Wire Driver command has none (R49: "internal to
the block, issued only from inside TICK"). -/
def hostWords (l : List Instr) : List HostWord :=
  l.filterMap fun i => match encode i with
    | .host w => some w
    | .wire _ => none

/-- The duty on a slot's value: 0 or an identifier 1..20 (R46). -/
def slotDuty (v : Byte) : Bool := decide (v.toNat ≤ 20)

/-- The duty on the count's value: 1..5, "Never 0" (R46). -/
def countDuty (v : Byte) : Bool := decide (1 ≤ v.toNat ∧ v.toNat ≤ 5)

/-- The duty on the unused slots of a published frame of `m` LEDs: "write `FB[i] = 0` for every `i` with `m <= i <= 4`"
(R44). -/
def unusedZero (m : Nat) (fb : Vector Byte 5) : Bool :=
  [0, 1, 2, 3, 4].all fun i => decide (i < m) || decide (fb[i]? = some 0)

end Sys2Proof.Machine
end

