-- ==== Sys2Proof/Machine/Assembler.lean ====
section
/-!
DEFINITION. The textual form of operations (30_encoding.md R63) with the pseudo-instructions of R64: "one per line,
case-insensitive mnemonics, decimal or `0x` numbers, `;` starts a comment". Text is a list of characters. This is
notation (92_eei_decisions.md D21): the machine never reads it.
-/

namespace Sys2Proof.Machine

/-- A letter in upper case. R63 makes the mnemonics case-insensitive; that the model does the same with the rest of a line is
marked at `tokens`. -/
def upperCase (c : Char) : Char :=
  if 97 ≤ c.toNat ∧ c.toNat ≤ 122 then Char.ofNat (c.toNat - 32) else c

/-- A token put in front of a list, unless it is empty. -/
def consToken (t : List Char) (ts : List (List Char)) : List (List Char) :=
  match t with
  | [] => ts
  | _ => t :: ts

/-- The tokens of a line: `,`, `[`, `]` and `*` stand for themselves, blanks separate, `;` ends the line. The second
argument is the token being read.

DESIGN CHOICE, safe (notes/assumptions/13.md): every token is read in upper case, so letter case is ignored not only in the
mnemonics, which is what R63 says, but also in the operand names (`fb0`, `ac`, `r6`, `z`, `l`, `h`), in the `0x` of a number
and in its digits, on which R63 is silent. -/
def tokens : List Char → List Char → List (List Char)
  | [], t => consToken t []
  | c :: cs, t =>
    if c = ';' then consToken t []
    else if c = ' ' ∨ c = '\t' then consToken t (tokens cs [])
    else if c = ',' ∨ c = '[' ∨ c = ']' ∨ c = '*' then consToken t ([c] :: tokens cs [])
    else tokens cs (t ++ [upperCase c])

/-- The value of a digit in base 16. -/
def digit (c : Char) : Option Nat :=
  if 48 ≤ c.toNat ∧ c.toNat ≤ 57 then some (c.toNat - 48)
  else if 65 ≤ c.toNat ∧ c.toNat ≤ 70 then some (c.toNat - 55)
  else none

/-- The number digits spell in a base, on top of the number read so far. -/
def digits (base : Nat) : List Char → Nat → Option Nat
  | [], n => some n
  | c :: cs, n =>
    match digit c with
    | some d => if d < base then digits base cs (base * n + d) else none
    | none => none

/-- A decimal or `0x` number. -/
def number : List Char → Option Nat
  | [] => none
  | ['0', 'X'] => none
  | '0' :: 'X' :: ds => digits 16 ds 0
  | ds => digits 10 ds 0

/-- A number of one byte, 0..255. -/
def byteToken (t : List Char) : Option Byte :=
  match number t with
  | some n => if n < 256 then some (BitVec.ofNat 8 n) else none
  | none => none

/-- A wire number, 0..4. -/
def wireToken (t : List Char) : Option WireIx :=
  match number t with
  | some n => if n < 5 then some (BitVec.ofNat 3 n) else none
  | none => none

/-- The write operation of a register's name. -/
def writeOf (r : List Char) (v : Byte) : Option Instr :=
  if r = "FB0".toList then some (.wrFb0 v)
  else if r = "FB1".toList then some (.wrFb1 v)
  else if r = "FB2".toList then some (.wrFb2 v)
  else if r = "FB3".toList then some (.wrFb3 v)
  else if r = "FB4".toList then some (.wrFb4 v)
  else if r = "AC".toList then some (.wrAc v)
  else if r = "R6".toList then some (.wrRsvd 0 v)
  else if r = "R7".toList then some (.wrRsvd 1 v)
  else none

/-- The Wire Driver operation of a state's letter. -/
def wsetOf (w : WireIx) (x : List Char) : Option Instr :=
  if x = ['Z'] then some (.wsetZ w)
  else if x = ['L'] then some (.wsetL w)
  else if x = ['H'] then some (.wsetH w)
  else none

/-- Bytes separated by commas up to a closing bracket, with the tokens after it. -/
def byteList : List (List Char) → Option (List Byte × List (List Char))
  | [']'] :: rest => some ([], rest)
  | t :: [','] :: rest =>
    match byteToken t, byteList rest with
    | some v, some (vs, after) => if vs = [] then none else some (v :: vs, after)
    | _, _ => none
  | t :: [']'] :: rest =>
    match byteToken t with
    | some v => some ([v], rest)
    | none => none
  | _ => none

/-- `PUBLISH` after its opening bracket, with the count or without it (R64). -/
def publishTokens (ts : List (List Char)) : Option (List Instr) :=
  match byteList ts with
  | some (vs, []) => if vs.length ≤ 5 then some (publishFrame vs) else none
  | some (vs, [[','], n]) =>
    match byteToken n with
    | some v => if vs.length ≤ 5 then some (publish vs v) else none
    | none => none
  | _ => none

/-- The operations a line's tokens stand for (R63, R64); none for a line that is not of the syntax. -/
def assembleTokens (ts : List (List Char)) : Option (List Instr) :=
  match ts with
  | [] => some []
  | [m] =>
    if m = "IDLE".toList then some [.idle]
    else if m = "TICK".toList then some [.tick]
    else if m = "RESET".toList then some [.reset]
    else if m = "DARK".toList then some dark
    else none
  | [m, r, [','], v] =>
    if m = "WR".toList then (byteToken v).bind fun x => (writeOf r x).map fun i => [i]
    else if m = "WSET".toList then (wireToken r).bind fun w => (wsetOf w v).map fun i => [i]
    else none
  | [m, ['*'], r] => if m = "TICK".toList then (number r).map ticks else none
  | m :: ['['] :: rest => if m = "PUBLISH".toList then publishTokens rest else none
  | _ => none

/-- The operations of one line of text. -/
def assembleLine (line : List Char) : Option (List Instr) := assembleTokens (tokens line [])

/-- A host program: its lines in order, none of which may hold a Wire Driver command ("`WSET` lines appear only in command
traces [...] never in a host program", R63). -/
def assembleProgram : List (List Char) → Option (List HostWord)
  | [] => some []
  | l :: ls =>
    match assembleLine l, assembleProgram ls with
    | some is, some ws => if (hostWords is).length = is.length then some (hostWords is ++ ws) else none
    | _, _ => none

end Sys2Proof.Machine
end

