-- ==== Sys2Proof/Machine/MicroStep.lean ====
section
/-!
DEFINITION. The block at the micro-step level (00_scope.md R7, 10_state.md R20): a TICK issues its trace, and every Wire
Driver command of the trace is a step of its own. "A model may take either" level; `step` is the event level.
-/

namespace Sys2Proof.Machine

/-- One micro-step: as `step`, but for TICK, which only issues its commands (R93). -/
def microStep (s : State) : Host.Outcome State Fault Refusal :=
  match fetch s with
  | .ok (.tick, t) => startTick topo t
  | .ok (i, t) => exec i t
  | .error r => .refused r

/-- `n` micro-steps, stopping where one gives no next state. -/
def microRun : Nat → State → Host.Outcome State Fault Refusal
  | 0, s => .next s
  | n + 1, s =>
    match microStep s with
    | .next t => microRun n t
    | .fault r => .fault r
    | .refused r => .refused r

end Sys2Proof.Machine
end

