-- ==== Sys2Proof/Machine/Pins.lean ====
section
/-!
DEFINITION. The outputs: the five wires on two signals each, and nothing else (10_state.md R30, 30_encoding.md R57).
-/

namespace Sys2Proof.Machine

/-- One bit of every wire's code, wire `w` at bit `w`. -/
def codeBits (i : Nat) (p : Pattern) : BitVec 5 :=
  BitVec.ofBool (p[4].code.getLsbD i) ++ BitVec.ofBool (p[3].code.getLsbD i) ++ BitVec.ofBool (p[2].code.getLsbD i) ++
    BitVec.ofBool (p[1].code.getLsbD i) ++ BitVec.ofBool (p[0].code.getLsbD i)

/-- `OE[4:0]`: bit `w` is the output enable of wire `w`, `s[1]` of its code (R57). -/
def outputEnable (p : Pattern) : BitVec 5 := codeBits 1 p

/-- `OUT[4:0]`: bit `w` is the level of wire `w`, `s[0]` of its code (R57). -/
def outputLevel (p : Pattern) : BitVec 5 := codeBits 0 p

/-- All the block shows: "The only outputs of the block are the five wires" (R30). -/
def outputs (s : State) : BitVec 5 × BitVec 5 := (outputEnable s.wires, outputLevel s.wires)

end Sys2Proof.Machine
end

