-- ==== Sys2Proof/Safety.lean ====
section
/-!
DEFINITION. What claims about the display are stated through (60_exceptions.md R126): the lit set, the legal patterns,
the invariants of every run from reset, and runs of several operations.
-/

namespace Sys2Proof.Machine

/-- LED `k` conducts in pattern `p`: its drive-high wire is high and its drive-low wire is low (R24). -/
def isLit (T : Topo) (p : Pattern) (k : Nat) : Bool :=
  match T.entry k with
  | some e => decide (p[e.hi.toNat]? = some .H ∧ p[e.lo.toNat]? = some .L)
  | none => false

/-- The lit set `lit(p)`, as the list of the identifiers in rising order (R24). -/
def lit (T : Topo) (p : Pattern) : List Nat := ledIds.filter (isLit T p)

/-- A legal pattern: all wires released, or the pattern of one identifier (R23). -/
def legal (T : Topo) (p : Pattern) : Bool :=
  decide (p = allZ) || ledIds.any fun k => decide (p = T.pattern k)

/-- The number of wires in a given state. -/
def countState (x : WireState) (p : Pattern) : Nat := (p.toList.filter fun y => y = x).length

/-- The cursor's range in every state reachable from RESET (R25). -/
def cursorInRange (s : State) : Bool := decide (s.cur.toNat < 5)

/-- What holds between operations in every state reachable from RESET, at the event level: no tick is in progress (R20), the
cursor is in range (R25) and the pattern is legal (R26). -/
def quiet (s : State) : Bool := decide (s.pending = []) && cursorInRange s && legal topo s.wires

/-- What holds in every state of a run at the micro-step level (R27): the commands still pending are the rest of the trace
of one selection, and the wires are what the commands already performed have made of a legal pattern. `n` is how many
are performed. -/
def inTick (T : Topo) (s : State) : Prop :=
  ∃ (old : Pattern) (sel : Option Entry) (n : Nat),
    legal T old = true ∧ (∀ e, sel = some e → ∃ k, T.entry k = some e) ∧ n ≤ (tickTrace sel).length ∧
      s.pending = ((tickTrace sel).drop n).map wordOfCmd ∧
      performCmds ((tickTrace sel).take n) old = .ok s.wires

/-- The operations performed one after another, each completely (R39, R106). -/
def execList : List Instr → State → Result
  | [], s => .next s
  | i :: rest, s =>
    match exec i s with
    | .next t => execList rest t
    | .fault r => .fault r
    | .refused r => .refused r

/-- `WR_FB i, v` for a slot index `i` (R101). -/
def slotWrite (i : Fin 5) (v : Byte) : Instr :=
  match i with
  | 0 => .wrFb0 v
  | 1 => .wrFb1 v
  | 2 => .wrFb2 v
  | 3 => .wrFb3 v
  | 4 => .wrFb4 v

/-- The operations that write a frame-buffer slot. -/
def isSlotWrite : Instr → Bool
  | .wrFb0 _ | .wrFb1 _ | .wrFb2 _ | .wrFb3 _ | .wrFb4 _ => true
  | .idle | .tick | .wrAc _ | .wrRsvd _ _ | .reset | .wsetZ _ | .wsetL _ | .wsetH _ => false

/-- The operations that write a wire: TICK, RESET and the Wire Driver's own (R72). -/
def isWireWriter : Instr → Bool
  | .tick | .reset | .wsetZ _ | .wsetL _ | .wsetH _ => true
  | .idle | .wrFb0 _ | .wrFb1 _ | .wrFb2 _ | .wrFb3 _ | .wrFb4 _ | .wrAc _ | .wrRsvd _ _ => false

end Sys2Proof.Machine
end

