-- ==== Sys2Proof/Certificates/Slice0/Obligations.lean ====
section
/-!
DEFINITION. The statements for the provers, from the numbered rules of spec/. `topo` is the machine's topology table, of
which nothing is known but that it is admissible, so a statement about `exec`, `step` or `microStep` is about every
admissible table (R75). A statement with basis 'derived' rests on what its docstring names.
-/

open Sys2Proof Sys2Proof.Machine

/-! ### Encoding and decoding -/

/-- A step performs the decoded operation, its word taken from where it stood (R106: one command word per step; R121: the
port waits for the Wire Driver's pending commands). Where nothing is presented nothing happens: the model's reading of
IDLE (notes/assumptions/5.md). -/
def Obligations.StepRunsDecodedInstruction : Prop :=
  ∀ s : State,
    (∀ w rest, s.pending = [] → s.port = w :: rest →
      (decodeHost w).wellFormed = true ∧ step s = exec (decodeHost w) { s with port := rest }) ∧
    (∀ w rest i, s.pending = w :: rest → decodeWire w = .ok i →
      i.wellFormed = true ∧ step s = exec i { s with pending := rest }) ∧
    (s.pending = [] → s.port = [] → step s = .next s)

/-- Words the spec writes out (95_test_vectors.md section 2.1) decode to the operations it names. -/
def Obligations.SpecWordsDecode : Prop :=
  decodeHost 0x0000 = .idle ∧ decodeHost 0x07FF = .idle ∧ decodeHost 0x0800 = .tick ∧ decodeHost 0x0FFF = .tick ∧
    decodeHost 0x1800 = .reset ∧ decodeHost 0x1FFF = .reset ∧ decodeHost 0x1005 = .wrFb0 5 ∧
    decodeHost 0x1414 = .wrFb4 20 ∧ decodeHost 0x1505 = .wrAc 5 ∧ decodeHost 0x16AB = .wrRsvd 0 0xAB ∧
    decodeHost 0x17FF = .wrRsvd 1 0xFF ∧ decodeHost 0x1234 = .wrFb2 52 ∧ decodeHost 0x13FF = .wrFb3 255 ∧
    decodeWire 0x0C = .ok (.wsetZ 3) ∧ decodeWire 0x02 = .ok (.wsetL 0) ∧ decodeWire 0x13 = .ok (.wsetH 4) ∧
    decodeWire 0x11 = .error .reservedStateCode ∧ decodeWire 0x14 = .error (.wireOutsideDomain 5)

/-- Decoding the word of any well-formed operation gives it back, with every operand at every value; and a Wire Driver word
that decodes is the word of its operation (30_encoding.md sections 2 and 3). -/
def Obligations.DecodeOfEncode : Prop :=
  (∀ i : Instr, i.wellFormed = true → decode (encode i) = .ok i) ∧
    ∀ (w : WireWord) (i : Instr), decodeWire w = .ok i → encode i = .wire w ∧ i.wellFormed = true

/-- R51: the `cmd` field's four values, each with its mask, match and canonical word; `0b10` is WR, whose word is
`0x1000 + (a << 8) + d`, and every one of the four values is assigned. -/
def Obligations.HostCommandClass : Prop :=
  (∀ w : HostWord,
    (w &&& 0x1800 = 0x0000 ↔ decodeHost w = .idle) ∧ (w &&& 0x1800 = 0x0800 ↔ decodeHost w = .tick) ∧
      (w &&& 0x1800 = 0x1800 ↔ decodeHost w = .reset) ∧
      (w &&& 0x1800 = 0x1000 ↔
        ∃ (a : RegAddr) (d : Byte), w = 0x1000 + (a.zeroExtend 13 <<< 8) + d.zeroExtend 13 ∧
          decodeHost w = decodeWrite a d)) ∧
    encode .idle = .host 0x0000 ∧ encode .tick = .host 0x0800 ∧ encode .reset = .host 0x1800

/-- R52: the `a` field under `cmd = 0b10`: each address's operation, mask, match and word. -/
def Obligations.HostWriteAddress : Prop :=
  (∀ w : HostWord,
    (w &&& 0x1F00 = 0x1000 ↔ ∃ d, w = 0x1000 + d.zeroExtend 13 ∧ decodeHost w = .wrFb0 d) ∧
      (w &&& 0x1F00 = 0x1100 ↔ ∃ d, w = 0x1100 + d.zeroExtend 13 ∧ decodeHost w = .wrFb1 d) ∧
      (w &&& 0x1F00 = 0x1200 ↔ ∃ d, w = 0x1200 + d.zeroExtend 13 ∧ decodeHost w = .wrFb2 d) ∧
      (w &&& 0x1F00 = 0x1300 ↔ ∃ d, w = 0x1300 + d.zeroExtend 13 ∧ decodeHost w = .wrFb3 d) ∧
      (w &&& 0x1F00 = 0x1400 ↔ ∃ d, w = 0x1400 + d.zeroExtend 13 ∧ decodeHost w = .wrFb4 d) ∧
      (w &&& 0x1F00 = 0x1500 ↔ ∃ d, w = 0x1500 + d.zeroExtend 13 ∧ decodeHost w = .wrAc d) ∧
      (w &&& 0x1E00 = 0x1600 ↔
        ∃ d, (w = 0x1600 + d.zeroExtend 13 ∧ decodeHost w = .wrRsvd 0 d) ∨
          (w = 0x1700 + d.zeroExtend 13 ∧ decodeHost w = .wrRsvd 1 d))) ∧
    ∀ (i : Fin 5) (d : Byte), decodeHost (hostWord 2 (BitVec.ofNat 3 i.val) d) = slotWrite i d

/-- R59: the reserved words are exactly `0x1600` to `0x17FF`, they change nothing, and no host word is illegal: every word
is one of the operations of the port. -/
def Obligations.ReservedHostWordsIgnored : Prop :=
  (∀ w : HostWord, (0x1600 ≤ w.toNat ∧ w.toNat ≤ 0x17FF ↔ ∃ b d, decodeHost w = .wrRsvd b d) ∧
      ∃ i, decode (.host w) = .ok i ∧ i.wellFormed = true ∧ ∃ v, encode i = .host v) ∧
    (∀ (b : BitVec 1) (d : Byte) (s : State), exec (.wrRsvd b d) s = .next s) ∧
    ∀ v w : HostWord, v &&& 0x1800 = w &&& 0x1800 → v &&& 0x1800 ≠ 0x1000 → decodeHost v = decodeHost w

/-- R60: the two kinds of wire word outside the domain have no meaning, 15 of the 32 words are valid, 17 are refused, and
the engine never forms a refused one. -/
def Obligations.WireWordDomain : Prop :=
  (∀ w : WireWord,
    ((∃ e, decodeWire w = .error e) ↔ w.extractLsb' 0 2 = 1 ∨ 5 ≤ (w.extractLsb' 2 3 : WireIx).toNat) ∧
      ∀ s : State, (∃ e, decodeWire w = .error e) → ∃ r, step (present (.wire w) s) = .refused r) ∧
    ((List.range 32).filter fun n => (decodeTableWord 5 n).isSome).length = 15 ∧
    ((List.range 32).filter fun n => (decodeTableWord 5 n).isNone).length = 17 ∧
    ∀ (T : Topo) (s : State) (sel : Option Entry), select T s = .ok sel →
      ∀ c ∈ tickTrace sel, decodeWire (wordOfCmd c) = .ok (instrOfCmd c)

/-! ### The Wire Driver -/

/-- R66: WSET_Z releases its wire, whatever its state before, and writes nothing else; its word and its pins; every tick
commands it for every wire. -/
def Obligations.WsetReleasesOneWire : Prop :=
  ∀ (w : WireIx) (s : State), w.toNat < 5 →
    encode (.wsetZ w) = .wire (w.zeroExtend 5 <<< 2) ∧
      ∃ t, exec (.wsetZ w) s = .next t ∧ t = { s with wires := t.wires } ∧ t.wires[w.toNat]? = some .Z ∧
        (∀ j, j ≠ w.toNat → t.wires[j]? = s.wires[j]?) ∧ (s.wires[w.toNat]? = some .Z → t = s) ∧
        (outputEnable t.wires).getLsbD w.toNat = false ∧ (outputLevel t.wires).getLsbD w.toNat = false ∧
        ∀ sel : Option Entry, ⟨w, .Z⟩ ∈ tickTrace sel

/-- R67: WSET_L drives its wire low whatever else is driven, and writes nothing else; its word and its pins. -/
def Obligations.WsetDrivesOneWireLow : Prop :=
  ∀ (w : WireIx) (s : State), w.toNat < 5 →
    encode (.wsetL w) = .wire ((w.zeroExtend 5 <<< 2) + 2) ∧
      ∃ t, exec (.wsetL w) s = .next t ∧ t = { s with wires := t.wires } ∧ t.wires[w.toNat]? = some .L ∧
        (∀ j, j ≠ w.toNat → t.wires[j]? = s.wires[j]?) ∧
        (outputEnable t.wires).getLsbD w.toNat = true ∧ (outputLevel t.wires).getLsbD w.toNat = false

/-- R68: WSET_H drives its wire high whatever else is driven, and writes nothing else; its word and its pins. -/
def Obligations.WsetDrivesOneWireHigh : Prop :=
  ∀ (w : WireIx) (s : State), w.toNat < 5 →
    encode (.wsetH w) = .wire ((w.zeroExtend 5 <<< 2) + 3) ∧
      ∃ t, exec (.wsetH w) s = .next t ∧ t = { s with wires := t.wires } ∧ t.wires[w.toNat]? = some .H ∧
        (∀ j, j ≠ w.toNat → t.wires[j]? = s.wires[j]?) ∧
        (outputEnable t.wires).getLsbD w.toNat = true ∧ (outputLevel t.wires).getLsbD w.toNat = true

/-- R69: a command to wire 5, 6 or 7 is refused, and the engine never issues one. -/
def Obligations.WsetOutsideDomainRefused : Prop :=
  (∀ (w : WireIx) (s : State), 5 ≤ w.toNat →
    exec (.wsetZ w) s = .refused (.wireOutsideDomain w) ∧ exec (.wsetL w) s = .refused (.wireOutsideDomain w) ∧
      exec (.wsetH w) s = .refused (.wireOutsideDomain w)) ∧
    ∀ (T : Topo) (s : State) (sel : Option Entry), select T s = .ok sel → ∀ c ∈ tickTrace sel, c.wire.toNat < 5

/-- R70: a format-W word with `s = 0b01` is refused, and the engine never issues one. -/
def Obligations.ReservedStateCodeRefused : Prop :=
  (∀ (w : WireWord) (s : State), w &&& 0b11 = 0b01 → ∃ r, step (present (.wire w) s) = .refused r) ∧
    (∀ (w : WireIx) (s : State), w.toNat < 5 →
      step (present (.wire (wireWord w 1)) s) = .refused .reservedStateCode) ∧
    ∀ (T : Topo) (s : State) (sel : Option Entry), select T s = .ok sel →
      ∀ c ∈ tickTrace sel, wordOfCmd c &&& 0b11 ≠ 0b01

/-- Which operation can change which register (10_state.md section 4; 40_wire_driver.md section 4). The wires change only by
TICK, RESET and the Wire Driver's own commands, the cursor only by TICK and RESET, a frame-buffer slot only by WR_FB and
RESET, the active count only by WR_AC and RESET. The clauses on `pending` and `port` are about the model's own fields, which
the spec's ownership table does not know: that no operation, RESET included, touches what the outside has still to present
is the model's choice (notes/assumptions/1.md, notes/assumptions/4.md). -/
def Obligations.OnlyOwnersWrite : Prop :=
  ∀ (i : Instr) (s t : State), exec i s = .next t →
    (isWireWriter i = false → t.wires = s.wires) ∧ (i ≠ .tick → i ≠ .reset → t.cur = s.cur) ∧
      (isSlotWrite i = false → i ≠ .reset → t.fb = s.fb) ∧ ((∀ v, i ≠ .wrAc v) → i ≠ .reset → t.ac = s.ac) ∧
      (i ≠ .reset → t.pending = s.pending) ∧ t.port = s.port

/-! ### The host command port -/

/-- R100: IDLE changes nothing, for any number of steps, whatever the ignored fields hold. -/
def Obligations.IdleHoldsEverything : Prop :=
  encode .idle = .host 0x0000 ∧ (∀ (a : RegAddr) (d : Byte), decodeHost (hostWord 0 a d) = .idle) ∧
    ∀ (n : Nat) (s : State), exec .idle s = .next s ∧ execList (List.replicate n .idle) s = .next s

/-- R101: WR_FB stores the byte in its slot as given and writes nothing else; its word; the next TICK that selects the slot
sees it; a slot at or above the active count has no effect on what is selected. -/
def Obligations.SlotWriteSetsItsSlot : Prop :=
  ∀ (i : Fin 5) (v : Byte) (s : State),
    encode (slotWrite i v) = .host (0x1000 + (BitVec.ofNat 13 i.val <<< 8) + v.zeroExtend 13) ∧
      ∃ t, exec (slotWrite i v) s = .next t ∧ t = { s with fb := t.fb } ∧ t.fb[i.val]? = some v ∧
        (∀ j, j ≠ i.val → t.fb[j]? = s.fb[j]?) ∧
        (s.cur.toNat = i.val → i.val < s.ac.toNat → select topo t = .ok (lookup topo v)) ∧
        (s.ac.toNat ≤ i.val → select topo t = select topo s)

/-- R102: WR_AC stores the byte as given and writes nothing else, in particular not the cursor; its word. -/
def Obligations.CountWriteSetsTheCount : Prop :=
  ∀ (v : Byte) (s : State),
    encode (.wrAc v) = .host (0x1500 + v.zeroExtend 13) ∧ exec (.wrAc v) s = .next { s with ac := v }

/-- R103: WR_RSVD, at address 6 or 7 with any data, changes nothing; its words. -/
def Obligations.ReservedWriteChangesNothing : Prop :=
  ∀ (d : Byte) (s : State),
    encode (.wrRsvd 0 d) = .host (0x1600 + d.zeroExtend 13) ∧ encode (.wrRsvd 1 d) = .host (0x1700 + d.zeroExtend 13) ∧
      exec (.wrRsvd 0 d) s = .next s ∧ exec (.wrRsvd 1 d) s = .next s ∧ exec (.wrRsvd 0 d) s = exec .idle s

/-- R105: RESET writes every register to its reset value, from any state, whatever the ignored fields hold, and emits no
Wire Driver command. -/
def Obligations.ResetFromAnyState : Prop :=
  encode .reset = .host 0x1800 ∧ (∀ (a : RegAddr) (d : Byte), decodeHost (hostWord 3 a d) = .reset) ∧
    ∀ s : State, ∃ t, exec .reset s = .next t ∧ (∀ i, i < 5 → t.fb[i]? = some 0) ∧ t.ac = 1 ∧ t.cur = 0 ∧
      (∀ w, w < 5 → t.wires[w]? = some .Z) ∧ ∀ c ∈ t.pending, c ∈ s.pending

/-- The model's choice for the two fields that are no registers: after RESET no tick is in progress, and what the outside
has still to present stays (notes/assumptions/4.md; 10_state.md R20 "that list is empty between ticks"). -/
def Obligations.ResetLeavesThePort : Prop :=
  ∀ s : State, exec .reset s = .next { State.reset with port := s.port }

/-- R28: the values after RESET; "the first TICK after RESET blanks all wires, lights nothing and leaves `CUR = 0`". -/
def Obligations.ResetStateValues : Prop :=
  State.reset.fb = #v[0, 0, 0, 0, 0] ∧ State.reset.ac = 1 ∧ State.reset.cur = 0 ∧
    State.reset.wires = #v[.Z, .Z, .Z, .Z, .Z] ∧
    ∃ t, exec .tick State.reset = .next t ∧ t.wires = #v[.Z, .Z, .Z, .Z, .Z] ∧ lit topo t.wires = [] ∧ t.cur = 0

/-- A host write moves one byte to one register of the host register space and nothing else (20_memory.md sections 1 and 2):
every address reads as before but the one written, and 6 and 7 hold nothing. -/
def Obligations.HostWriteFrame : Prop :=
  ∀ (a : RegAddr) (v : Byte) (s : State), ∃ t, exec (decodeWrite a v) s = .next t ∧
    readReg a t = (if a.toNat < 6 then some v else none) ∧ (∀ b, b ≠ a → readReg b t = readReg b s) ∧
    t.cur = s.cur ∧ t.wires = s.wires ∧ t.pending = s.pending ∧ t.port = s.port

/-- "Writing the value a register already holds changes nothing (writes are idempotent)" (20_memory.md section 2). -/
def Obligations.WritesAreIdempotent : Prop :=
  ∀ (a : RegAddr) (v : Byte) (s : State),
    (readReg a s = some v → exec (decodeWrite a v) s = .next s) ∧
      execList [decodeWrite a v, decodeWrite a v] s = exec (decodeWrite a v) s

/-! ### The topology map and the pins -/

/-- R77: the reference table's entries by their formula and by their format-T bytes; it is admissible. -/
def Obligations.ReferenceTable : Prop :=
  TopoWF topoRef.table ∧
    (∀ p : Fin 20, topoRef.table[p].hi.toNat = p.val / 4 ∧
      topoRef.table[p].lo.toNat = (if p.val % 4 < p.val / 4 then p.val % 4 else p.val % 4 + 1)) ∧
    topoRef.table.toList.map wordOfEntry = [0x01, 0x02, 0x03, 0x04, 0x08, 0x0A, 0x0B, 0x0C, 0x10, 0x11,
      0x13, 0x14, 0x18, 0x19, 0x1A, 0x1C, 0x20, 0x21, 0x22, 0x23]

/-- 41_topology_map.md section 1, "`TOPO` is a bijection onto the ordered pairs of distinct wires", and section 2, "there
is exactly one `k`", which the spec marks as derived: in every admissible table every ordered pair of distinct wires is
the entry of exactly one LED, and the inverse finds it. -/
def Obligations.EveryPairIsOneLed : Prop :=
  ∀ (T : Topo) (e : Entry), e.hi.toNat < 5 → e.lo.toNat < 5 → e.hi ≠ e.lo →
    ∃ k, 1 ≤ k ∧ k ≤ 20 ∧ T.entry k = some e ∧ T.led e = some k ∧ ∀ j, T.entry j = some e → j = k

/-- R78: LOOKUP on all 256 values. -/
def Obligations.LookupOnEveryByte : Prop :=
  ∀ (T : Topo) (v : Byte),
    (v = 0 → lookup T v = none) ∧
      (∀ (h : 1 ≤ v.toNat ∧ v.toNat ≤ 20), lookup T v = some (T.table[v.toNat - 1])) ∧
      (21 ≤ v.toNat → lookup T v = none)

/-- R56: the classes of a frame-buffer byte and what the engine does with each: nothing driven, the entry of the identifier
driven, and exactly as 0. -/
def Obligations.ByteClasses : Prop :=
  ∀ (T : Topo) (v : Byte),
    (v.toNat = 0 → classify v = .noLed ∧ driveCmds (lookup T v) = []) ∧
      (∀ (h : 1 ≤ v.toNat ∧ v.toNat ≤ 20), classify v = .led v.toNat ∧
        driveCmds (lookup T v) = [⟨T.table[v.toNat - 1].hi, .H⟩, ⟨T.table[v.toNat - 1].lo, .L⟩]) ∧
      (21 ≤ v.toNat → classify v = .outOfRange ∧ lookup T v = lookup T 0)

/-- 41_topology_map.md section 2, PAIRDEC, which the spec marks as derived: the pattern of a pair and its pins. -/
def Obligations.PairPattern : Prop :=
  ∀ e : Entry, e.hi.toNat < 5 → e.lo.toNat < 5 → e.hi ≠ e.lo →
    (pairdec e)[e.hi.toNat]? = some .H ∧ (pairdec e)[e.lo.toNat]? = some .L ∧
      (∀ w, w < 5 → w ≠ e.hi.toNat → w ≠ e.lo.toNat → (pairdec e)[w]? = some .Z) ∧
      outputEnable (pairdec e) = (1 <<< e.hi.toNat) + (1 <<< e.lo.toNat) ∧ outputLevel (pairdec e) = 1 <<< e.hi.toNat

/-- R57: the pins of every wire in every pattern, the pair that never appears, and the spec's example. -/
def Obligations.PinEncoding : Prop :=
  (∀ (p : Pattern) (w : Fin 5),
    (p[w] = .Z → (outputEnable p).getLsbD w = false ∧ (outputLevel p).getLsbD w = false) ∧
      (p[w] = .L → (outputEnable p).getLsbD w = true ∧ (outputLevel p).getLsbD w = false) ∧
      (p[w] = .H → (outputEnable p).getLsbD w = true ∧ (outputLevel p).getLsbD w = true) ∧
      ((outputEnable p).getLsbD w = true ↔ p[w] ≠ .Z) ∧ ((outputLevel p).getLsbD w = true ↔ p[w] = .H) ∧
      ¬((outputEnable p).getLsbD w = false ∧ (outputLevel p).getLsbD w = true)) ∧
    outputEnable #v[.L, .H, .Z, .Z, .Z] = 0b00011 ∧ outputLevel #v[.L, .H, .Z, .Z, .Z] = 0b00010

/-- The pins together show the whole pattern, and so, for a legal pattern, which LED it is (95_test_vectors.md V25: "`OE` and
`OUT` together do"; 10_state.md section 5, "`pattern(j) = pattern(k)` implies `j = k`", which the spec marks as derived). -/
def Obligations.PinsIdentifyTheLed : Prop :=
  (∀ p q : Pattern, outputEnable p = outputEnable q → outputLevel p = outputLevel q → p = q) ∧
    ∀ (T : Topo) (j k : Nat), 1 ≤ j → j ≤ 20 → 1 ≤ k → k ≤ 20 → T.pattern j = T.pattern k → j = k

/-- 41_topology_map.md section 3, "For every valid `k`, `lit(pattern(k)) = {k}`", which the spec marks as derived. -/
def Obligations.PatternLightsItsLed : Prop :=
  ∀ (T : Topo) (k : Nat), 1 ≤ k → k ≤ 20 → lit T (T.pattern k) = [k]

/-- 41_topology_map.md section 3, which the spec marks as derived: a pattern lights one LED for each pair of a high and a low
wire. So one without a high wire, or without a low one, lights nothing, and two of a kind with one of the other light
more than one LED. -/
def Obligations.LitCountsDrivenPairs : Prop :=
  ∀ (T : Topo) (p : Pattern), (lit T p).length = countState .H p * countState .L p

/-! ### The engine -/

/-- R85: TICK always completes with the cursor in its range, and its net effect at the event level. -/
def Obligations.TickNetEffect : Prop :=
  encode .tick = .host 0x0800 ∧
    ∀ (s : State) (h : s.cur.toNat < 5), ∃ t, exec .tick s = .next t ∧ t = { s with wires := t.wires, cur := t.cur } ∧
      (∀ k, s.cur.toNat < s.ac.toNat → s.fb[s.cur.toNat].toNat = k → 1 ≤ k → k ≤ 20 → t.wires = topo.pattern k) ∧
      (¬(s.cur.toNat < s.ac.toNat ∧ 1 ≤ s.fb[s.cur.toNat].toNat ∧ s.fb[s.cur.toNat].toNat ≤ 20) → t.wires = allZ) ∧
      t.cur.toNat = (s.cur.toNat + 1) %
        (if s.ac.toNat = 0 then 1 else if 5 < s.ac.toNat then 5 else s.ac.toNat)

/-- The model's choice for states no run reaches (10_state.md R29, notes/assumptions/6.md): TICK is refused exactly when it
would read a slot outside the frame buffer. -/
def Obligations.TickStopsOnlyOutsideTheBuffer : Prop :=
  ∀ s : State,
    (5 ≤ s.cur.toNat → s.cur.toNat < s.ac.toNat → exec .tick s = .refused (.cursorOutsideFrameBuffer s.cur)) ∧
      (s.cur.toNat < 5 ∨ s.ac.toNat ≤ s.cur.toNat → ∃ t, exec .tick s = .next t)

/-- R86: the blanking commands leave every wire released, from any pattern and in any order, and then nothing is lit. -/
def Obligations.BlankReleasesEveryWire : Prop :=
  blankCmds = [⟨0, .Z⟩, ⟨1, .Z⟩, ⟨2, .Z⟩, ⟨3, .Z⟩, ⟨4, .Z⟩] ∧
    (∀ (l : List WireCmd) (p : Pattern), l.Perm blankCmds → performCmds l p = .ok allZ) ∧ ∀ T : Topo, lit T allZ = []

/-- R87: what SELECT reads and answers: the LED of the slot under the cursor if the slot is below the raw count, else none. -/
def Obligations.SelectTheSlotUnderTheCursor : Prop :=
  ∀ (T : Topo) (s : State) (h : s.cur.toNat < 5),
    (s.cur.toNat < s.ac.toNat → select T s = .ok (lookup T s.fb[s.cur.toNat])) ∧
      (¬s.cur.toNat < s.ac.toNat → select T s = .ok none)

/-- R88: DRIVE on a blanked pattern gives `pattern(k)` in either order of its two commands, two different wires driven; after
one of the two alone nothing is lit; with nothing selected, nothing is driven. -/
def Obligations.DriveMakesThePattern : Prop :=
  (∀ (T : Topo) (k : Nat) (e : Entry), T.entry k = some e →
    driveCmds (some e) = [⟨e.hi, .H⟩, ⟨e.lo, .L⟩] ∧ e.hi ≠ e.lo ∧
      (∀ l : List WireCmd, l.Perm (driveCmds (some e)) → performCmds l allZ = .ok (T.pattern k)) ∧
      (∀ c ∈ driveCmds (some e), ∃ p, performCmds [c] allZ = .ok p ∧ lit T p = [])) ∧
    ∀ p : Pattern, performCmds (driveCmds none) p = .ok p

/-- R89: the effective divisor. -/
def Obligations.EffectiveDivisor : Prop :=
  ∀ ac : Byte,
    (ac.toNat = 0 → effectiveDivisor ac = 1) ∧ (1 ≤ ac.toNat → ac.toNat ≤ 5 → effectiveDivisor ac = ac.toNat) ∧
      (5 < ac.toNat → effectiveDivisor ac = 5)

/-- R90: every TICK advances the cursor to `(slot + 1) mod n`, whether or not an LED was driven; the result is below `n`,
`n = 1` gives 0 from every slot and `slot = n - 1` wraps to 0. -/
def Obligations.TickAdvancesTheCursor : Prop :=
  (∀ s t : State, exec .tick s = .next t →
    t.cur.toNat = (s.cur.toNat + 1) % effectiveDivisor s.ac ∧ t.cur.toNat < effectiveDivisor s.ac ∧
      (effectiveDivisor s.ac = 1 → t.cur = 0) ∧ (s.cur.toNat + 1 = effectiveDivisor s.ac → t.cur = 0)) ∧
    ∀ s : State, s.cur.toNat < 5 → ∃ t, exec .tick s = .next t

/-- R91: every blanking command of a tick precedes every drive command of it. -/
def Obligations.BlankBeforeDrive : Prop :=
  ∀ sel : Option Entry, ∃ blank drive : List WireCmd, tickTrace sel = blank ++ drive ∧ blank = blankCmds ∧
    (∀ c ∈ blank, c.state = .Z) ∧ ∀ c ∈ drive, c.state ≠ .Z

/-- The command trace of a tick as format-W words, 5 or 7 of them, each a command of the Wire Driver's domain and a
micro-step that changes one wire (42_multiplex_engine.md section 3, "Command trace (micro-step level)"). In the last clause,
that a TICK word taken at the micro-step level issues its whole trace in a micro-step of its own, which changes no wire, is
the model's choice (notes/assumptions/2.md). -/
def Obligations.TickCommandTrace : Prop :=
  ∀ (T : Topo) (s : State) (sel : Option Entry), select T s = .ok sel →
    (sel = none → (tickTrace sel).map wordOfCmd = [0x00, 0x04, 0x08, 0x0C, 0x10]) ∧
      (∀ e, sel = some e → (tickTrace sel).map wordOfCmd =
        ([0x00, 0x04, 0x08, 0x0C, 0x10, (e.hi.zeroExtend 5 <<< (2 : Nat)) + 3,
          (e.lo.zeroExtend 5 <<< (2 : Nat)) + 2] : List WireWord)) ∧
      (∀ c ∈ tickTrace sel, decodeWire (wordOfCmd c) = .ok (instrOfCmd c) ∧
        ∀ u : State, ∃ v, exec (instrOfCmd c) u = .next v ∧ v = { u with wires := v.wires } ∧
          ∀ j, j ≠ c.wire.toNat → v.wires[j]? = u.wires[j]?) ∧
      (T = topo → ∃ t, microStep (present (.host 0x0800) s) = .next t ∧ t.wires = s.wires ∧
        t.pending = (tickTrace sel).map wordOfCmd)

/-- R94: with `AC = 0` nothing is driven whatever the frame buffer holds, and the cursor goes to 0; with `AC = 1` and
`FB[0] = 5` LED 5 is shown on every tick. -/
def Obligations.ZeroCountShowsNothing : Prop :=
  (∀ s : State, s.ac = 0 → exec .tick s = .next { s with wires := allZ, cur := 0 }) ∧
    ∀ (s : State) (n : Nat), s.ac = 1 → s.cur = 0 → s.fb[0] = 5 →
      execList (ticks (n + 1)) s = .next { s with wires := topo.pattern 5, cur := 0 }

/-- 42_multiplex_engine.md section 4, "Cursor at or above the count", which the spec marks as derived: one dark tick brings
the cursor below the count, and no later tick with the same count takes it out again. -/
def Obligations.CursorAboveCountIsDarkOnce : Prop :=
  ∀ s : State, s.cur.toNat < 5 → 1 ≤ s.ac.toNat → s.ac.toNat ≤ 5 →
    (s.ac.toNat ≤ s.cur.toNat → ∃ t, exec .tick s = .next t ∧ t.wires = allZ ∧ t.ac = s.ac ∧
      t.cur.toNat = (s.cur.toNat + 1) % s.ac.toNat ∧ t.cur.toNat < t.ac.toNat) ∧
    (∀ n, ∃ t, execList (ticks (n + 1)) s = .next t ∧ t.ac = s.ac ∧ t.cur.toNat < t.ac.toNat)

/-- R96: an identifier above 20 drives nothing, the cursor advances as usual, the slot keeps its value and nothing else
changes. -/
def Obligations.OutOfRangeIdentifierIgnored : Prop :=
  ∀ (s : State) (h : s.cur.toNat < 5), s.cur.toNat < s.ac.toNat → 21 ≤ s.fb[s.cur.toNat].toNat →
    ∃ t, exec .tick s = .next t ∧ t = { s with wires := allZ, cur := t.cur } ∧
      t.cur.toNat = (s.cur.toNat + 1) % effectiveDivisor s.ac

/-- R97: with `AC > 5` the block behaves exactly as for `AC = 5`. -/
def Obligations.LargeCountActsAsFive : Prop :=
  ∀ s : State, s.cur.toNat < 5 → 5 < s.ac.toNat →
    ∃ t, exec .tick s = .next t ∧ exec .tick { s with ac := 5 } = .next { t with ac := 5 } ∧
      t.cur.toNat = (s.cur.toNat + 1) % 5

/-- Any host write is seen by the very next TICK, with no fence (20_memory.md section 3, "A host write to `FB[i]` or `AC` is
visible to the very next TICK"): after WR_FB the TICK shows the byte that the slot under the cursor then holds, whatever
slot and whatever byte were written; after WR_AC it compares and divides by the byte written, any byte of the 256. -/
def Obligations.NextTickSeesTheWrite : Prop :=
  (∀ (i : Fin 5) (v : Byte) (s : State), s.cur.toNat < 5 →
    ∃ t b, execList [slotWrite i v, .tick] s = .next t ∧ (s.fb.set i v)[s.cur.toNat]? = some b ∧
      (s.cur.toNat = i.val → b = v) ∧
      (t.wires = if s.cur.toNat < s.ac.toNat ∧ 1 ≤ b.toNat ∧ b.toNat ≤ 20 then topo.pattern b.toNat else allZ) ∧
      lit topo t.wires = if s.cur.toNat < s.ac.toNat ∧ 1 ≤ b.toNat ∧ b.toNat ≤ 20 then [b.toNat] else []) ∧
    ∀ (v : Byte) (s : State), s.cur.toNat < 5 →
      ∃ t b, execList [.wrAc v, .tick] s = .next t ∧ s.fb[s.cur.toNat]? = some b ∧
        (t.wires = if s.cur.toNat < v.toNat ∧ 1 ≤ b.toNat ∧ b.toNat ≤ 20 then topo.pattern b.toNat else allZ) ∧
        (lit topo t.wires = if s.cur.toNat < v.toNat ∧ 1 ≤ b.toNat ∧ b.toNat ≤ 20 then [b.toNat] else []) ∧
        t.cur.toNat = (s.cur.toNat + 1) % effectiveDivisor v

/-! ### The whole machine -/

/-- 60_exceptions.md section 1, "all functions are total (defined for every input in their domain)", for the states every run
stays in (10_state.md section 5, "Cursor range invariant", which the spec marks as derived): every well-formed operation
answers a next state, never a fault and never a refusal, and so does every micro-step, also in the middle of a tick. -/
def Obligations.EveryOperationCompletes : Prop :=
  (∀ (i : Instr) (s : State), i.wellFormed = true → cursorInRange s = true → ∃ t, exec i s = .next t) ∧
    ∀ s : State, cursorInRange s = true → inTick topo s → ∃ t, microStep s = .next t

/-- 60_exceptions.md section 1, "*next state* for every host command word in every state reachable from RESET", which the
spec marks as derived: with no tick in progress and the cursor in range any word presented completes. The clause on `step s`
also covers the state with nothing presented, where a step does nothing: that case is the model's choice
(notes/assumptions/5.md). -/
def Obligations.EveryHostWordCompletes : Prop :=
  ∀ s : State, s.pending = [] → s.cur.toNat < 5 →
    (∃ t, step s = .next t) ∧ ∀ w : HostWord, ∃ t, step (present (.host w) s) = .next t

/-- 10_state.md section 5, "Cursor range invariant", which the spec marks as derived, as an invariant of every step at both
levels. -/
def Obligations.CursorRangeKept : Prop :=
  ∀ s t : State, cursorInRange s = true →
    (step s = .next t → cursorInRange t = true) ∧ (microStep s = .next t → cursorInRange t = true)

/-- 10_state.md section 5, "Anti-ghost invariant, event level", which the spec marks as derived, as an invariant of every
step: no tick in progress, the cursor in range, the pattern legal. -/
def Obligations.QuietKept : Prop :=
  ∀ s t : State, quiet s = true → step s = .next t → quiet t = true

/-- The event-level invariant holds at reset, and the micro-step one too (10_state.md sections 5 and 6). -/
def Obligations.InvariantsHoldAtReset : Prop :=
  quiet State.reset = true ∧ cursorInRange State.reset = true ∧ inTick topo State.reset

/-- A legal pattern lights at most one LED, so no quiet state lights two, and none drives a pair that is not in the map
(10_state.md section 5, which the spec marks as derived). -/
def Obligations.LegalLightsAtMostOne : Prop :=
  ∀ (T : Topo) (p : Pattern), legal T p = true →
    lit T p = [] ∧ p = allZ ∨ ∃ k, 1 ≤ k ∧ k ≤ 20 ∧ p = T.pattern k ∧ lit T p = [k]

/-- 10_state.md section 5, "Anti-ghost invariant, micro-step level", which the spec marks as derived: for every order of the
blanking commands and every order of the drive commands, after every single command only LEDs of the previous pattern
are lit while the blanking runs, none until the last drive command, and then exactly the selected one. -/
def Obligations.NoGhostBetweenCommands : Prop :=
  ∀ (T : Topo) (old p : Pattern) (k : Nat) (e : Entry) (sel : Option Entry) (blank drive : List WireCmd) (n : Nat),
    legal T old = true → T.entry k = some e → (sel = none ∨ sel = some e) →
    blank.Perm blankCmds → drive.Perm (driveCmds sel) → n ≤ (blank ++ drive).length →
    performCmds ((blank ++ drive).take n) old = .ok p →
    (n ≤ 5 → ∀ j ∈ lit T p, j ∈ lit T old) ∧
      (5 ≤ n → n < (blank ++ drive).length → lit T p = []) ∧
      (n = (blank ++ drive).length → lit T p = if sel = some e then [k] else [])

/-- The micro-step invariant is kept by every micro-step: the wires are always what a part of one tick's trace has made of a
legal pattern (10_state.md section 5, which the spec marks as derived). -/
def Obligations.TickInProgressKept : Prop :=
  ∀ s t : State, inTick topo s → microStep s = .next t → inTick topo t

/-- In every state of the micro-step invariant at most one LED is lit (10_state.md section 5, which the spec marks as
derived). -/
def Obligations.TickInProgressLightsAtMostOne : Prop :=
  ∀ s : State, inTick topo s → (lit topo s.wires).length ≤ 1

/-- The two levels agree (00_scope.md section 3, "The event level is exact"): from a state with no tick in progress, what a step
does is done, with the same next state, by a run of micro-steps: one where the next word is no TICK or nothing is presented,
six for a TICK that selects nothing, eight for a TICK that selects an LED. That a TICK takes one micro-step of its own,
beside the five or seven of its trace, is the model's choice (notes/assumptions/2.md, notes/assumptions/11.md). -/
def Obligations.MicroStepsRefineTheStep : Prop :=
  ∀ s t : State, s.pending = [] → step s = .next t →
    ((∀ w rest, s.port = w :: rest → decodeHost w ≠ .tick) → microRun 1 s = .next t) ∧
      ∀ w rest, s.port = w :: rest → decodeHost w = .tick →
        (select topo s = .ok none → microRun 6 s = .next t) ∧
          ∀ e, select topo s = .ok (some e) → microRun 8 s = .next t

/-- 42_multiplex_engine.md section 5, "Steady display", which the spec marks as derived: with the count in range and the
cursor below it, the ticks show the slots cyclically, each in its turn, for ever. -/
def Obligations.SteadyDisplay : Prop :=
  ∀ (s : State) (r : Nat), 1 ≤ s.ac.toNat → s.ac.toNat ≤ 5 → s.cur.toNat < s.ac.toNat →
    ∃ t v, execList (ticks (r + 1)) s = .next t ∧ t = { s with wires := t.wires, cur := t.cur } ∧
      s.fb[(s.cur.toNat + r) % s.ac.toNat]? = some v ∧ t.cur.toNat = (s.cur.toNat + r + 1) % s.ac.toNat ∧
      (t.wires = if 1 ≤ v.toNat ∧ v.toNat ≤ 20 then topo.pattern v.toNat else allZ) ∧
      lit topo t.wires = if 1 ≤ v.toNat ∧ v.toNat ≤ 20 then [v.toNat] else []

/-- 43_host_port.md section 3, "every tick that lights an LED lights one that is in the old frame or in the new frame",
which the spec marks as derived: ticks fall anywhere among the first writes of a publication. -/
def Obligations.PublishShowsOldOrNew : Prop :=
  ∀ (frame : List Byte) (l : List Instr) (s t : State),
    quiet s = true → frame.length ≤ 5 → (l.filter fun i => i ≠ .tick) <+: publishFrame frame →
    execList l s = .next t →
    ∃ u, exec .tick t = .next u ∧ legal topo u.wires = true ∧
      ∀ k ∈ lit topo u.wires, lit topo u.wires = [k] ∧
        (BitVec.ofNat 8 k ∈ s.fb.toList ∨ BitVec.ofNat 8 k ∈ frame)

/-- 43_host_port.md section 3, which the spec marks as derived: once the publication of a frame of valid identifiers is
complete every tick shows the new frame only, and a frame that has an LED is dark on the first tick alone, and only when
the cursor is at or above the new count. -/
def Obligations.PublishedFrameIsShown : Prop :=
  ∀ (frame : List Byte) (l : List Instr) (s t : State) (r : Nat),
    quiet s = true → frame.length ≤ 5 → (∀ v ∈ frame, 1 ≤ v.toNat ∧ v.toNat ≤ 20) →
    (l.filter fun i => i ≠ .tick) = publishFrame frame → execList l s = .next t →
    ∃ u, execList (ticks (r + 1)) t = .next u ∧
      (lit topo u.wires = [] ∨ ∃ v ∈ frame, lit topo u.wires = [v.toNat]) ∧
      (frame ≠ [] → (lit topo u.wires = [] ↔ r = 0 ∧ (frameCount frame).toNat ≤ t.cur.toNat))

/-- R64: the words of the pseudo-instructions: PUBLISH is always six words, the slots in ascending order, zero beyond the
frame, the count last. -/
def Obligations.PseudoInstructionWords : Prop :=
  (∀ (frame : List Byte) (n : Byte), frame.length ≤ 5 →
    hostWords (publish frame n) =
      [0x1000 + (frame.getD 0 0).zeroExtend 13, 0x1100 + (frame.getD 1 0).zeroExtend 13,
        0x1200 + (frame.getD 2 0).zeroExtend 13, 0x1300 + (frame.getD 3 0).zeroExtend 13,
        0x1400 + (frame.getD 4 0).zeroExtend 13, 0x1500 + n.zeroExtend 13] ∧
      publishFrame frame = publish frame (BitVec.ofNat 8 (max 1 frame.length))) ∧
    hostWords dark = [0x1000, 0x1100, 0x1200, 0x1300, 0x1400, 0x1501] ∧
    ∀ r, hostWords (ticks r) = List.replicate r 0x0800

/-- "No data flows the other direction" (00_scope.md section 2; 43_host_port.md section 2, "No read operation"): two states
that agree on what the host wrote, and differ in the cursor and the wires at will, agree on it after a step. -/
def Obligations.NothingFlowsBack : Prop :=
  ∀ s s' t t' : State, s.pending = [] → s'.pending = [] → s.fb = s'.fb → s.ac = s'.ac → s.port = s'.port →
    step s = .next t → step s' = .next t' → t.fb = t'.fb ∧ t.ac = t'.ac ∧ t.port = t'.port
end

