-- ==== Sys2Proof/Laws/Decode.lean ====
section
/-!
SUPPORT. The fields of a format-C word, and the decoder by its fields.
-/

namespace Sys2Proof

variable (c : BitVec 2) (a : RegAddr) (d : Byte)

@[simp] theorem hostWord_cmd : HostWord.cmd (hostWord c a d) = c := by
  apply BitVec.eq_of_getLsbD_eq
  intro i hi
  simp only [HostWord.cmd, hostWord, BitVec.getLsbD_extractLsb', BitVec.getLsbD_append]
  simp [hi, show ¬(11 + i < 8) by omega, show ¬(11 + i - 8 < 3) by omega, show 11 + i - 8 - 3 = i by omega]

@[simp] theorem hostWord_addr : HostWord.addr (hostWord c a d) = a := by
  apply BitVec.eq_of_getLsbD_eq
  intro i hi
  simp only [HostWord.addr, hostWord, BitVec.getLsbD_extractLsb', BitVec.getLsbD_append]
  simp [hi]

@[simp] theorem hostWord_data : HostWord.data (hostWord c a d) = d := by
  apply BitVec.eq_of_getLsbD_eq
  intro i hi
  simp only [HostWord.data, hostWord, BitVec.getLsbD_extractLsb', BitVec.getLsbD_append]
  simp [hi]

/-- A format-C word is made of its fields (R50). -/
theorem hostWord_fields (w : HostWord) : hostWord (HostWord.cmd w) (HostWord.addr w) (HostWord.data w) = w := by
  apply BitVec.eq_of_getLsbD_eq
  intro i hi
  simp only [HostWord.cmd, HostWord.addr, HostWord.data, hostWord, BitVec.getLsbD_append, BitVec.getLsbD_extractLsb']
  by_cases h1 : i < 8
  · simp [h1]
  · by_cases h2 : i - 8 < 3
    · simp [h1, h2, show 8 + (i - 8) = i by omega]
    · simp [h1, h2, show i - 8 - 3 < 2 by omega, show 11 + (i - 8 - 3) = i by omega]

@[simp] theorem decodeHost_idle : decodeHost (hostWord 0#2 a d) = .idle := by
  unfold decodeHost; rw [hostWord_cmd]; rfl

@[simp] theorem decodeHost_tick : decodeHost (hostWord 1#2 a d) = .tick := by
  unfold decodeHost; rw [hostWord_cmd]; rfl

@[simp] theorem decodeHost_write : decodeHost (hostWord 2#2 a d) = decodeWrite a d := by
  unfold decodeHost; rw [hostWord_cmd, hostWord_addr, hostWord_data]; rfl

@[simp] theorem decodeHost_reset : decodeHost (hostWord 3#2 a d) = .reset := by
  unfold decodeHost; rw [hostWord_cmd]; rfl

end Sys2Proof
end

