-- ==== Sys2Proof/Laws/State.lean ====
section
/-!
SUPPORT. The fields of the reset state, and what each named update of the state leaves in each field. A proof reads a field
through these lemmas and unfolds no update.
-/

namespace Sys2Proof.Machine

variable (s : State) (a : RegAddr) (v : Byte)

@[simp] theorem reset_fb : State.reset.fb = #v[0, 0, 0, 0, 0] := rfl
@[simp] theorem reset_ac : State.reset.ac = 1 := rfl
@[simp] theorem reset_cur : State.reset.cur = 0 := rfl
@[simp] theorem reset_wires : State.reset.wires = allZ := rfl
@[simp] theorem reset_pending : State.reset.pending = [] := rfl
@[simp] theorem reset_port : State.reset.port = [] := rfl

@[simp] theorem resetState_fb : (resetState s).fb = #v[0, 0, 0, 0, 0] := rfl
@[simp] theorem resetState_ac : (resetState s).ac = 1 := rfl
@[simp] theorem resetState_cur : (resetState s).cur = 0 := rfl
@[simp] theorem resetState_wires : (resetState s).wires = allZ := rfl
@[simp] theorem resetState_pending : (resetState s).pending = [] := rfl
@[simp] theorem resetState_port : (resetState s).port = s.port := rfl

/-- An address is one of the eight of the host register space (R31). -/
theorem regAddr_cases : a = 0#3 ∨ a = 1#3 ∨ a = 2#3 ∨ a = 3#3 ∨ a = 4#3 ∨ a = 5#3 ∨ a = 6#3 ∨ a = 7#3 := by
  revert a; decide

@[simp] theorem writeReg_cur : (writeReg a v s).cur = s.cur := by
  rcases regAddr_cases a with rfl | rfl | rfl | rfl | rfl | rfl | rfl | rfl <;> rfl
@[simp] theorem writeReg_wires : (writeReg a v s).wires = s.wires := by
  rcases regAddr_cases a with rfl | rfl | rfl | rfl | rfl | rfl | rfl | rfl <;> rfl
@[simp] theorem writeReg_pending : (writeReg a v s).pending = s.pending := by
  rcases regAddr_cases a with rfl | rfl | rfl | rfl | rfl | rfl | rfl | rfl <;> rfl
@[simp] theorem writeReg_port : (writeReg a v s).port = s.port := by
  rcases regAddr_cases a with rfl | rfl | rfl | rfl | rfl | rfl | rfl | rfl <;> rfl

@[simp] theorem writeReg_slot0 : writeReg 0#3 v s = { s with fb := s.fb.set 0 v } := rfl
@[simp] theorem writeReg_slot1 : writeReg 1#3 v s = { s with fb := s.fb.set 1 v } := rfl
@[simp] theorem writeReg_slot2 : writeReg 2#3 v s = { s with fb := s.fb.set 2 v } := rfl
@[simp] theorem writeReg_slot3 : writeReg 3#3 v s = { s with fb := s.fb.set 3 v } := rfl
@[simp] theorem writeReg_slot4 : writeReg 4#3 v s = { s with fb := s.fb.set 4 v } := rfl
@[simp] theorem writeReg_count : writeReg 5#3 v s = { s with ac := v } := rfl
@[simp] theorem writeReg_reserved6 : writeReg 6#3 v s = s := rfl
@[simp] theorem writeReg_reserved7 : writeReg 7#3 v s = s := rfl

end Sys2Proof.Machine
end

