-- ==== Sys2Proof/Laws/Ops.lean ====
section
/-!
SUPPORT. One lemma per shared operation, saying everything it can do.
-/

namespace Sys2Proof.Machine

/-- Reading the register just written gives the byte written; no other register changes; nothing reads at 6 and 7. -/
theorem readReg_writeReg (a b : RegAddr) (v : Byte) (s : State) :
    readReg b (writeReg a v s) = if b = a ∧ a.toNat < 6 then some v else readReg b s := by
  rcases regAddr_cases a with rfl | rfl | rfl | rfl | rfl | rfl | rfl | rfl <;>
    rcases regAddr_cases b with rfl | rfl | rfl | rfl | rfl | rfl | rfl | rfl <;>
    simp [readReg]

/-- A write to a register that holds the byte already changes nothing. -/
theorem writeReg_same (a : RegAddr) (v : Byte) (s : State) (h : readReg a s = some v) : writeReg a v s = s := by
  rcases regAddr_cases a with rfl | rfl | rfl | rfl | rfl | rfl | rfl | rfl <;>
    simp_all [readReg] <;> subst h <;> simp

/-- The slot under a cursor in range. -/
@[simp] theorem readSlot_inRange (c : SlotIx) (s : State) (h : c.toNat < 5) : readSlot c s = some s.fb[c.toNat] := by
  simp [readSlot, h]

/-- There is no slot under a cursor out of range. -/
@[simp] theorem readSlot_outOfRange (c : SlotIx) (s : State) (h : 5 ≤ c.toNat) : readSlot c s = none := by
  simp [readSlot, Nat.not_lt.mpr h]

/-- The Wire Driver sets one wire in its domain. -/
@[simp] theorem setWire_inDomain (w : WireIx) (x : WireState) (p : Pattern) (h : w.toNat < 5) :
    setWire w x p = .ok (p.set w.toNat x) := by
  simp [setWire, h]

/-- The Wire Driver refuses a wire outside its domain. -/
@[simp] theorem setWire_outside (w : WireIx) (x : WireState) (p : Pattern) (h : 5 ≤ w.toNat) :
    setWire w x p = .error (.wireOutsideDomain w) := by
  simp [setWire, Nat.not_lt.mpr h]

/-- Everything a Wire Driver command can do: set its one wire, or be refused outside the domain. -/
theorem driveWire_cases (w : WireIx) (x : WireState) (s : State) :
    (∃ h : w.toNat < 5, driveWire w x s = .next { s with wires := s.wires.set w.toNat x }) ∨
      (5 ≤ w.toNat ∧ driveWire w x s = .refused (.wireOutsideDomain w)) := by
  by_cases h : w.toNat < 5
  · exact .inl ⟨h, by simp [driveWire, h]⟩
  · exact .inr ⟨by omega, by simp [driveWire, Nat.not_lt.mp h]⟩

/-- Commands in sequence: first the ones, then the others. -/
theorem performCmds_append (l m : List WireCmd) (p : Pattern) :
    performCmds (l ++ m) p =
      match performCmds l p with
      | .ok q => performCmds m q
      | .error r => .error r := by
  induction l generalizing p with
  | nil => rfl
  | cons c l ih =>
    simp only [List.cons_append, performCmds]
    cases setWire c.wire c.state p with
    | error r => rfl
    | ok q => exact ih q

/-- The comparison of the cursor with the count is the one of numbers. -/
@[simp] theorem slotActive_iff (c : SlotIx) (ac : Byte) : slotActive c ac = true ↔ c.toNat < ac.toNat := by
  have : c.toNat < 8 := c.isLt
  simp [slotActive, BitVec.ult]
  omega

/-- The divisor is 1 to 5. -/
theorem effectiveDivisor_range (ac : Byte) : 1 ≤ effectiveDivisor ac ∧ effectiveDivisor ac ≤ 5 := by
  unfold effectiveDivisor; split <;> [skip; split] <;> omega

/-- The next cursor as a number. -/
@[simp] theorem nextCursor_toNat (c : SlotIx) (ac : Byte) :
    (nextCursor c ac).toNat = (c.toNat + 1) % effectiveDivisor ac := by
  have h := effectiveDivisor_range ac
  have := Nat.mod_lt (c.toNat + 1) (show 0 < effectiveDivisor ac by omega)
  simp only [nextCursor, BitVec.toNat_ofNat]
  omega

/-- Everything SELECT can answer. -/
theorem select_cases (T : Topo) (s : State) :
    (s.ac.toNat ≤ s.cur.toNat ∧ select T s = .ok none) ∨
      (∃ h : s.cur.toNat < 5, s.cur.toNat < s.ac.toNat ∧ select T s = .ok (lookup T s.fb[s.cur.toNat])) ∨
      (5 ≤ s.cur.toNat ∧ s.cur.toNat < s.ac.toNat ∧ select T s = .error (.cursorOutsideFrameBuffer s.cur)) := by
  by_cases ha : s.cur.toNat < s.ac.toNat
  · by_cases h : s.cur.toNat < 5
    · exact .inr (.inl ⟨h, ha, by simp [select, ha, h]⟩)
    · exact .inr (.inr ⟨by omega, ha, by simp [select, ha, Nat.not_lt.mp h]⟩)
  · exact .inl ⟨by omega, by simp [select, ha]⟩

/-- Everything TICK can do: refuse what SELECT or the Wire Driver refuses, or write the wires and the cursor. -/
theorem tick_cases (T : Topo) (s : State) :
    (∃ r, select T s = .error r ∧ tick T s = .refused r) ∨
      (∃ sel r, select T s = .ok sel ∧ performCmds (tickTrace sel) s.wires = .error r ∧ tick T s = .refused r) ∨
      (∃ sel p, select T s = .ok sel ∧ performCmds (tickTrace sel) s.wires = .ok p ∧
        tick T s = .next { s with wires := p, cur := nextCursor s.cur s.ac }) := by
  unfold tick
  cases hs : select T s with
  | error r => exact .inl ⟨r, rfl, rfl⟩
  | ok sel =>
    cases hp : performCmds (tickTrace sel) s.wires with
    | error r => exact .inr (.inl ⟨sel, r, rfl, hp, by simp [hp]⟩)
    | ok p => exact .inr (.inr ⟨sel, p, rfl, hp, by simp [hp]⟩)

end Sys2Proof.Machine
end

