-- ==== Sys2Proof/Laws/Topology.lean ====
section
/-!
SUPPORT. What an admissible topology table gives its reader.
-/

namespace Sys2Proof.Machine

/-- A number has an entry exactly when it is an LED identifier. -/
theorem entry_some_iff (T : Topo) (k : Nat) (e : Entry) :
    T.entry k = some e ↔ ∃ h : 1 ≤ k ∧ k ≤ 20, T.table[k - 1] = e := by
  unfold Topo.entry
  split
  · simp_all
  · rename_i h
    simp [h]

/-- An LED identifier has an entry. -/
theorem entry_of_valid (T : Topo) (k : Nat) (h : 1 ≤ k ∧ k ≤ 20) : T.entry k = some T.table[k - 1] := by
  simp [Topo.entry, h]

/-- Any other number has none. -/
theorem entry_of_invalid (T : Topo) (k : Nat) (h : ¬(1 ≤ k ∧ k ≤ 20)) : T.entry k = none := by
  simp [Topo.entry, h]

/-- The wires of an entry are wires, and two different ones. -/
theorem entry_wires (T : Topo) (k : Nat) (e : Entry) (h : T.entry k = some e) :
    e.hi.toNat < 5 ∧ e.lo.toNat < 5 ∧ e.hi ≠ e.lo := by
  obtain ⟨hk, rfl⟩ := (entry_some_iff T k e).mp h
  exact T.wf.1 ⟨k - 1, by omega⟩

/-- No two identifiers have the same entry. -/
theorem entry_inj (T : Topo) (j k : Nat) (e : Entry) (hj : T.entry j = some e) (hk : T.entry k = some e) : j = k := by
  obtain ⟨h1, e1⟩ := (entry_some_iff T j e).mp hj
  obtain ⟨h2, e2⟩ := (entry_some_iff T k e).mp hk
  have h := T.wf.2 ⟨j - 1, by omega⟩ ⟨k - 1, by omega⟩ (by simpa using e1.trans e2.symm)
  simp only [Fin.mk.injEq] at h
  omega

/-- `LOOKUP` is the table read at the byte's value. -/
@[simp] theorem lookup_eq_entry (T : Topo) (v : Byte) : lookup T v = T.entry v.toNat := by
  unfold lookup classify
  split <;> rename_i h <;> split at h <;> [skip; split at h; skip; split at h; skip; split at h] <;> simp_all [Topo.entry]

end Sys2Proof.Machine
end

