-- ==== Sys2Proof/Laws/Engine.lean ====
section
/-!
SUPPORT. What a tick's command trace makes of a pattern, and TICK in one equation.
-/

namespace Sys2Proof.Machine

/-- Two patterns that agree on the five wires are equal. -/
theorem pattern_ext (p q : Pattern) (h : ∀ i : Fin 5, p[i] = q[i]) : p = q :=
  Vector.ext fun i hi => h ⟨i, hi⟩

/-- A wire of the pattern of a pair. -/
theorem pairdec_get (e : Entry) (i : Fin 5) :
    (pairdec e)[i] = if i.val = e.hi.toNat then .H else if i.val = e.lo.toNat then .L else .Z := by
  obtain ⟨hi, lo⟩ := e
  revert i lo hi
  decide

/-- The blanking commands leave every wire released, from any pattern (R86). -/
theorem performCmds_blank (p : Pattern) : performCmds blankCmds p = .ok allZ := by
  have h : ∀ i : Fin 5, (((((p.set 0 .Z).set 1 .Z).set 2 .Z).set 3 .Z).set 4 .Z)[i] = allZ[i] := by
    intro i
    fin_cases i <;> simp [allZ]
  simpa [performCmds, blankCmds] using pattern_ext _ _ h

/-- The two drive commands on a blanked pattern leave the pattern of the pair (R88). -/
theorem performCmds_drive (e : Entry) (hh : e.hi.toNat < 5) (hl : e.lo.toNat < 5) (hne : e.hi ≠ e.lo) :
    performCmds (driveCmds (some e)) allZ = .ok (pairdec e) := by
  obtain ⟨hi, lo⟩ := e
  revert hi lo
  decide

/-- The pattern a tick leaves for a selection (R85). -/
def selectedPattern : Option Entry → Pattern
  | some e => pairdec e
  | none => allZ

/-- A tick's whole trace leaves the selected pattern, whatever the pattern before (R85). -/
theorem performCmds_tickTrace (sel : Option Entry) (p : Pattern)
    (h : ∀ e, sel = some e → e.hi.toNat < 5 ∧ e.lo.toNat < 5 ∧ e.hi ≠ e.lo) :
    performCmds (tickTrace sel) p = .ok (selectedPattern sel) := by
  rw [tickTrace, performCmds_append, performCmds_blank]
  cases sel with
  | none => rfl
  | some e => exact performCmds_drive e (h e rfl).1 (h e rfl).2.1 (h e rfl).2.2

/-- What SELECT selects is an entry of the table. -/
theorem select_entry (T : Topo) (s : State) (e : Entry) (h : select T s = .ok (some e)) :
    ∃ k, T.entry k = some e := by
  obtain ⟨_, h'⟩ | ⟨hc, _, h'⟩ | ⟨_, _, h'⟩ := select_cases T s <;> rw [h'] at h <;> simp at h
  exact ⟨_, h⟩

/-- TICK in one equation, where SELECT answers (R85). -/
theorem tick_of_select (T : Topo) (s : State) (sel : Option Entry) (h : select T s = .ok sel) :
    tick T s = .next { s with wires := selectedPattern sel, cur := nextCursor s.cur s.ac } := by
  have hw := performCmds_tickTrace sel s.wires fun e he => by
    obtain ⟨k, hk⟩ := select_entry T s e (he ▸ h)
    exact entry_wires T k e hk
  simp [tick, h, hw]

/-- The pattern of a looked-up byte (R78, R23). -/
theorem selectedPattern_entry (T : Topo) (k : Nat) : selectedPattern (T.entry k) = T.pattern k := by
  unfold Topo.pattern
  cases T.entry k <;> rfl

end Sys2Proof.Machine
end

