-- ==== Sys2Proof/Laws/Fetch.lean ====
section
/-!
SUPPORT. The decoder of the Wire Driver on the engine's own words, and what a fetch can answer.
-/

namespace Sys2Proof.Machine

/-- A command's word decodes to the command (R53). -/
theorem decodeWire_wordOfCmd (c : WireCmd) (h : c.wire.toNat < 5) :
    decodeWire (wordOfCmd c) = .ok (instrOfCmd c) := by
  obtain ⟨w, x⟩ := c
  revert w
  cases x <;> decide

/-- A command performed as an operation. -/
theorem exec_instrOfCmd (c : WireCmd) (s : State) : exec (instrOfCmd c) s = driveWire c.wire c.state s := by
  obtain ⟨w, x⟩ := c
  cases x <;> rfl

/-- Everything a fetch can answer: the Wire Driver's next command, the port's next word, or nothing to do. -/
theorem fetch_cases (s : State) :
    (∃ w rest, s.pending = w :: rest ∧
        ((∃ i, decodeWire w = .ok i ∧ fetch s = .ok (i, { s with pending := rest })) ∨
          ∃ e, decodeWire w = .error e ∧ fetch s = .error (refusalOf e))) ∨
      (s.pending = [] ∧ ∃ w rest, s.port = w :: rest ∧ fetch s = .ok (decodeHost w, { s with port := rest })) ∨
      (s.pending = [] ∧ s.port = [] ∧ fetch s = .ok (.idle, s)) := by
  cases hp : s.pending with
  | cons w rest =>
    refine .inl ⟨w, rest, rfl, ?_⟩
    cases hd : decodeWire w with
    | ok i => exact .inl ⟨i, rfl, by simp [fetch, hp, hd]⟩
    | error e => exact .inr ⟨e, rfl, by simp [fetch, hp, hd]⟩
  | nil =>
    cases ho : s.port with
    | cons w rest => exact .inr (.inl ⟨rfl, w, rest, rfl, by simp [fetch, hp, ho]⟩)
    | nil => exact .inr (.inr ⟨rfl, rfl, by simp [fetch, hp, ho]⟩)

end Sys2Proof.Machine
end

