-- ==== Sys2Proof/Laws/PerInstr.lean ====
section
/-!
SUPPORT. Statements about every instruction as syntax, one lemma per constructor.

`TableRow`: the canonical word of an instruction carries the bits that its row of spec/opcode_table.json fixes, and is
wide as the row says. The rows' masks and matches are written out here from the table, apart from the encoder.
-/

namespace Sys2Proof

/-- A row of spec/opcode_table.json: its width in bits, its mask and its match. -/
structure OpcodeRow where
  width : Nat
  mask : Nat
  pattern : Nat
deriving DecidableEq, Repr

/-- The row of an instruction, from spec/opcode_table.json. -/
def rowOf : Instr → OpcodeRow
  | .idle => ⟨13, 0x1800, 0x0000⟩
  | .tick => ⟨13, 0x1800, 0x0800⟩
  | .wrFb0 _ => ⟨13, 0x1F00, 0x1000⟩
  | .wrFb1 _ => ⟨13, 0x1F00, 0x1100⟩
  | .wrFb2 _ => ⟨13, 0x1F00, 0x1200⟩
  | .wrFb3 _ => ⟨13, 0x1F00, 0x1300⟩
  | .wrFb4 _ => ⟨13, 0x1F00, 0x1400⟩
  | .wrAc _ => ⟨13, 0x1F00, 0x1500⟩
  | .wrRsvd _ _ => ⟨13, 0x1E00, 0x1600⟩
  | .reset => ⟨13, 0x1800, 0x1800⟩
  | .wsetZ _ => ⟨5, 0x03, 0x00⟩
  | .wsetL _ => ⟨5, 0x03, 0x02⟩
  | .wsetH _ => ⟨5, 0x03, 0x03⟩

/-- A word has a row's width and the bits the row fixes. -/
def fitsRow (r : OpcodeRow) : CommandWord → Prop
  | .host w => r.width = 13 ∧ w &&& BitVec.ofNat 13 r.mask = BitVec.ofNat 13 r.pattern
  | .wire w => r.width = 5 ∧ w &&& BitVec.ofNat 5 r.mask = BitVec.ofNat 5 r.pattern

namespace Laws.TableRow

/-- The instruction's word fits its row. -/
def Statement (i : Instr) : Prop := fitsRow (rowOf i) (encode i)

theorem idle : Statement .idle := ⟨rfl, by decide⟩
theorem tick : Statement .tick := ⟨rfl, by decide⟩
theorem wrFb0 (v : Byte) : Statement (.wrFb0 v) := ⟨rfl, by revert v; decide⟩
theorem wrFb1 (v : Byte) : Statement (.wrFb1 v) := ⟨rfl, by revert v; decide⟩
theorem wrFb2 (v : Byte) : Statement (.wrFb2 v) := ⟨rfl, by revert v; decide⟩
theorem wrFb3 (v : Byte) : Statement (.wrFb3 v) := ⟨rfl, by revert v; decide⟩
theorem wrFb4 (v : Byte) : Statement (.wrFb4 v) := ⟨rfl, by revert v; decide⟩
theorem wrAc (v : Byte) : Statement (.wrAc v) := ⟨rfl, by revert v; decide⟩
theorem wrRsvd (b : BitVec 1) (d : Byte) : Statement (.wrRsvd b d) := ⟨rfl, by revert b d; decide⟩
theorem reset : Statement .reset := ⟨rfl, by decide⟩
theorem wsetZ (w : WireIx) : Statement (.wsetZ w) := ⟨rfl, by revert w; decide⟩
theorem wsetL (w : WireIx) : Statement (.wsetL w) := ⟨rfl, by revert w; decide⟩
theorem wsetH (w : WireIx) : Statement (.wsetH w) := ⟨rfl, by revert w; decide⟩

end Laws.TableRow

end Sys2Proof
end

