-- ==== Sys2Proof/Tests/Slice0.lean ====
section
/-!
SUPPORT. The model's own tests, and the witnesses of the statements in Certificates/Slice0/Obligations.lean. Expected results
come from the spec: V<n> is a vector of 95_test_vectors.md, and the words are written out bit by bit from
30_encoding.md R50 to R54.
-/

namespace Sys2Proof.Tests

open Sys2Proof.Machine

/-- A state with the given registers, nothing pending and nothing presented. -/
def st (fb : Vector Byte 5) (ac : Byte) (cur : SlotIx) (wires : Pattern) : State :=
  { fb := fb, ac := ac, cur := cur, wires := wires, pending := [], port := [] }

/-- The next state of an outcome, if it is one (outcomes themselves are not comparable by `decide`). -/
def next? : Result → Option State
  | .next s => some s
  | .fault _ => none
  | .refused _ => none

/-- The reason of a refusal. -/
def refusal? : Result → Option Refusal
  | .next _ => none
  | .fault _ => none
  | .refused r => some r

/-! ### Well-formedness: each check refuses an ill-formed term -/

theorem test_wsetZ_needs_a_wire : Instr.wellFormed (.wsetZ 5) = false ∧ Instr.wellFormed (.wsetZ 4) = true := by decide
theorem test_wsetL_needs_a_wire : Instr.wellFormed (.wsetL 6) = false ∧ Instr.wellFormed (.wsetL 0) = true := by decide
theorem test_wsetH_needs_a_wire : Instr.wellFormed (.wsetH 7) = false ∧ Instr.wellFormed (.wsetH 4) = true := by decide

/-! ### Decoding: one word for every constructor, bits from the spec (`cmd a d` and `w s`), and the encoder back -/

theorem test_decode_idle : decodeTableWord 16 0b00_000_00000000 = some .idle ∧ encode .idle = .host 0x0000 := by decide
theorem test_decode_tick : decodeTableWord 16 0b01_000_00000000 = some .tick ∧ encode .tick = .host 0x0800 := by decide
/-- V4. -/
theorem test_decode_wrFb0 : decodeTableWord 16 0b10_000_00000101 = some (.wrFb0 5) ∧ encode (.wrFb0 5) = .host 0x1005 := by decide
theorem test_decode_wrFb1 : decodeTableWord 16 0b10_001_11111111 = some (.wrFb1 255) ∧ encode (.wrFb1 255) = .host 0x11FF := by decide
/-- V8. -/
theorem test_decode_wrFb2 : decodeTableWord 16 0b10_010_00110100 = some (.wrFb2 52) ∧ encode (.wrFb2 52) = .host 0x1234 := by decide
/-- V9. -/
theorem test_decode_wrFb3 : decodeTableWord 16 0b10_011_11111111 = some (.wrFb3 255) ∧ encode (.wrFb3 255) = .host 0x13FF := by decide
/-- V5. -/
theorem test_decode_wrFb4 : decodeTableWord 16 0b10_100_00010100 = some (.wrFb4 20) ∧ encode (.wrFb4 20) = .host 0x1414 := by decide
/-- V6. -/
theorem test_decode_wrAc : decodeTableWord 16 0b10_101_00000101 = some (.wrAc 5) ∧ encode (.wrAc 5) = .host 0x1505 := by decide
/-- V7. -/
theorem test_decode_wrRsvd : decodeTableWord 16 0b10_110_10101011 = some (.wrRsvd 0 0xAB) ∧
    decodeTableWord 16 0b10_111_11111111 = some (.wrRsvd 1 0xFF) ∧ encode (.wrRsvd 1 0xFF) = .host 0x17FF := by decide
/-- V3, V43: ignored fields. -/
theorem test_decode_reset : decodeTableWord 16 0b11_000_00000000 = some .reset ∧ decodeTableWord 16 0x1ABC = some .reset := by decide
/-- V10. -/
theorem test_decode_wsetZ : decodeTableWord 8 0b011_00 = some (.wsetZ 3) ∧ encode (.wsetZ 3) = .wire 0x0C := by decide
theorem test_decode_wsetL : decodeTableWord 8 0b000_10 = some (.wsetL 0) ∧ encode (.wsetL 0) = .wire 0x02 := by decide
theorem test_decode_wsetH : decodeTableWord 8 0b100_11 = some (.wsetH 4) ∧ encode (.wsetH 4) = .wire 0x13 := by decide
/-- V11: state code 01, and wire 5. -/
theorem test_decode_refused_wire_words : decodeTableWord 8 0b100_01 = none ∧ decodeTableWord 8 0b101_00 = none ∧
    decodeWire 0b111_01 = .error (.wireOutsideDomain 7) := by decide
/-- R62: a number wider than its format is no word. -/
theorem test_decode_too_wide : decodeTableWord 16 0x2000 = none ∧ decodeTableWord 8 0x20 = none := by decide

/-! ### One step -/

/-- V41. -/
theorem test_idle_holds : next? (step ((st #v[5, 0, 0, 0, 0] 1 0 #v[.L, .H, .Z, .Z, .Z]).withFetchWord 16 0x0000)) =
    some (st #v[5, 0, 0, 0, 0] 1 0 #v[.L, .H, .Z, .Z, .Z]) := by decide
/-- V38: a write does not touch the wires. -/
theorem test_wrFb0_step : next? (step ((st #v[5, 0, 0, 0, 0] 1 0 #v[.L, .H, .Z, .Z, .Z]).withFetchWord 16 0x1009)) =
    some (st #v[9, 0, 0, 0, 0] 1 0 #v[.L, .H, .Z, .Z, .Z]) := by decide
/-- V40: stored raw. -/
theorem test_wrFb1_raw : next? (exec (.wrFb1 255) (st #v[0, 0, 0, 0, 0] 1 0 allZ)) = some (st #v[0, 255, 0, 0, 0] 1 0 allZ) := by decide
/-- R101 at the other three slots. -/
theorem test_wrFb2_slot : next? (exec (.wrFb2 7) (st #v[1, 2, 3, 4, 6] 5 2 allZ)) = some (st #v[1, 2, 7, 4, 6] 5 2 allZ) := by decide
theorem test_wrFb3_slot : next? (exec (.wrFb3 7) (st #v[1, 2, 3, 4, 6] 5 2 allZ)) = some (st #v[1, 2, 3, 7, 6] 5 2 allZ) := by decide
theorem test_wrFb4_slot : next? (exec (.wrFb4 7) (st #v[1, 2, 3, 4, 6] 5 2 allZ)) = some (st #v[1, 2, 3, 4, 7] 5 2 allZ) := by decide
/-- V39: a count write does not touch the cursor. -/
theorem test_wrAc_keeps_cursor : next? (exec (.wrAc 2) (st #v[1, 2, 3, 4, 6] 5 4 allZ)) = some (st #v[1, 2, 3, 4, 6] 2 4 allZ) := by decide
/-- V37. -/
theorem test_wrRsvd_ignored : next? (step ((st #v[5, 0, 0, 0, 0] 1 0 #v[.L, .H, .Z, .Z, .Z]).withFetchWord 16 0x16AB)) =
    some (st #v[5, 0, 0, 0, 0] 1 0 #v[.L, .H, .Z, .Z, .Z]) := by decide
/-- V42. -/
theorem test_reset_from_any_state : next? (step ((st #v[21, 255, 7, 0, 0] 7 3 #v[.Z, .H, .Z, .L, .Z]).withFetchWord 16 0x1800)) =
    some (st #v[0, 0, 0, 0, 0] 1 0 #v[.Z, .Z, .Z, .Z, .Z]) := by decide
/-- V27, on the machine's own table. -/
theorem test_tick_after_reset : next? (step (State.reset.withFetchWord 16 0x0800)) = some State.reset := by decide
/-- V29, V31, V32, V33, V34 and V35, on the reference table. -/
theorem test_tick_vectors :
    next? (tick topoRef (st #v[1, 8, 20, 0, 0] 3 2 allZ)) = some (st #v[1, 8, 20, 0, 0] 3 0 #v[.Z, .Z, .Z, .L, .H]) ∧
    next? (tick topoRef (st #v[21, 255, 7, 0, 0] 3 0 allZ)) = some (st #v[21, 255, 7, 0, 0] 3 1 allZ) ∧
    next? (tick topoRef (st #v[5, 5, 5, 5, 5] 0 3 allZ)) = some (st #v[5, 5, 5, 5, 5] 0 0 allZ) ∧
    next? (tick topoRef (st #v[20, 255, 7, 0, 6] 7 4 allZ)) = some (st #v[20, 255, 7, 0, 6] 7 0 #v[.Z, .H, .L, .Z, .Z]) ∧
    next? (tick topoRef (st #v[1, 2, 3, 4, 6] 2 4 allZ)) = some (st #v[1, 2, 3, 4, 6] 2 1 allZ) ∧
    next? (tick topoRef (st #v[9, 12, 0, 0, 0] 2 1 #v[.Z, .H, .Z, .L, .Z])) =
      some (st #v[9, 12, 0, 0, 0] 2 0 #v[.Z, .Z, .H, .Z, .L]) := by decide
/-- V13. -/
theorem test_wsetZ_step : next? (step ((st #v[0, 0, 0, 0, 0] 1 0 #v[.Z, .Z, .L, .H, .Z]).withFetchWord 8 0x0C)) =
    some (st #v[0, 0, 0, 0, 0] 1 0 #v[.Z, .Z, .L, .Z, .Z]) := by decide
/-- V15. -/
theorem test_wsetL_step : next? (step ((st #v[0, 0, 0, 0, 0] 1 0 #v[.Z, .H, .Z, .Z, .Z]).withFetchWord 8 0x02)) =
    some (st #v[0, 0, 0, 0, 0] 1 0 #v[.L, .H, .Z, .Z, .Z]) := by decide
/-- V17: the driver does not refuse an illegal pattern. -/
theorem test_wsetH_step : next? (step ((st #v[0, 0, 0, 0, 0] 1 0 #v[.H, .L, .Z, .Z, .Z]).withFetchWord 8 0x0B)) =
    some (st #v[0, 0, 0, 0, 0] 1 0 #v[.H, .L, .H, .Z, .Z]) := by decide
/-- V18. -/
theorem test_wset_refused : refusal? (step { State.reset with pending := [0x14] }) = some (.wireOutsideDomain 5) := by decide
/-- R98: the whole table of the cursor's advance. -/
theorem test_advance_table :
    ([0, 1, 2, 3, 4] : List SlotIx).map (fun c => ([1, 2, 3, 4, 5] : List Byte).map (nextCursor c)) =
      [[0, 1, 1, 1, 1], [0, 0, 2, 2, 2], [0, 1, 0, 3, 3], [0, 0, 1, 0, 4], [0, 1, 2, 1, 0]] := by decide

/-! ### Micro-steps, topology, pins, text -/

/-- V35's trace, as words. -/
theorem test_trace_words : (tickTrace (some ⟨2, 4⟩)).map wordOfCmd = [0x00, 0x04, 0x08, 0x0C, 0x10, 0x0B, 0x12] := by decide
/-- V36, steps 1, 2 and 6. -/
theorem test_micro_step_lit : lit topoRef #v[.Z, .H, .Z, .L, .Z] = [7] ∧ lit topoRef #v[.Z, .Z, .Z, .L, .Z] = [] ∧
    lit topoRef #v[.Z, .Z, .H, .Z, .Z] = [] := by decide
/-- V17, V26. -/
theorem test_lit : lit topoRef #v[.H, .L, .H, .Z, .Z] = [1, 10] ∧ lit topoRef #v[.L, .H, .Z, .Z, .Z] = [5] ∧
    lit topoRef #v[.H, .H, .Z, .Z, .Z] = [] := by decide
/-- V19 to V24. -/
theorem test_lookup : lookup topoRef 0 = none ∧ lookup topoRef 1 = some ⟨0, 1⟩ ∧ lookup topoRef 20 = some ⟨4, 3⟩ ∧
    lookup topoRef 21 = none ∧ lookup topoRef 128 = none ∧ lookup topoRef 255 = none := by decide
/-- R80 with the reference table. -/
theorem test_inverse : topoRef.led ⟨0, 1⟩ = some 1 ∧ topoRef.led ⟨1, 0⟩ = some 5 ∧ topoRef.led ⟨4, 3⟩ = some 20 := by decide
/-- V25, row 12. -/
theorem test_pairdec : pairdec ⟨2, 4⟩ = #v[.Z, .Z, .H, .Z, .L] ∧ outputEnable (pairdec ⟨2, 4⟩) = 0b10100 ∧
    outputLevel (pairdec ⟨2, 4⟩) = 0b00100 := by decide
/-- V12. -/
theorem test_pins : outputEnable #v[.Z, .H, .Z, .L, .Z] = 0b01010 ∧ outputLevel #v[.Z, .H, .Z, .L, .Z] = 0b00010 := by decide
/-- R54. -/
theorem test_state_codes : [WireState.Z, .L, .H].map WireState.code = [0b00, 0b10, 0b11] ∧ wireStateOfCode 0b01 = none ∧
    [WireState.Z, .L, .H].map (fun x => wireStateOfCode x.code) = [some .Z, some .L, some .H] := by decide
/-- R55 with the reference table. -/
theorem test_format_t : entryOfWord 0x23 = ⟨4, 3⟩ ∧ wordOfEntry ⟨1, 3⟩ = 0x0B := by decide
/-- R63: a line with a comment, lower case and a `0x` number; an operand out of range. -/
theorem test_assemble : assembleLine "wr fb2, 0x34 ; V8".toList = some [.wrFb2 52] ∧
    assembleLine "WSET 4, L".toList = some [.wsetL 4] ∧ assembleLine "WR AC, 256".toList = none := by decide
/-- The model's choice (notes/assumptions/13.md): letter case is ignored in operands and numbers too. -/
theorem test_assemble_case : assembleLine "WR r7, 0Xab".toList = assembleLine "wr R7, 0xAB".toList ∧
    assembleLine "wset 4, z".toList = some [.wsetZ 4] := by decide
/-- P2's publication, with its words, and R64's other pseudo-instructions. -/
theorem test_assemble_publish :
    assembleProgram ["RESET".toList, "PUBLISH [1, 8, 20]".toList, "TICK * 2".toList] =
      some [0x1800, 0x1001, 0x1108, 0x1214, 0x1300, 0x1400, 0x1503, 0x0800, 0x0800] ∧
    assembleLine "PUBLISH [], 1".toList = assembleLine "DARK".toList ∧ assembleProgram ["WSET 0, Z".toList] = none := by decide

/-! ### Witnesses: a concrete state and operands that meet the hypotheses of each statement, clause by clause -/

theorem witness_StepRunsDecodedInstruction :
    ((present (.host 0x1FFF) State.reset).pending = [] ∧ (present (.host 0x1FFF) State.reset).port = 0x1FFF :: []) ∧
    ((present (.wire 0x13) State.reset).pending = 0x13 :: [] ∧ decodeWire 0x13 = .ok (.wsetH 4)) ∧
    (State.reset.pending = [] ∧ State.reset.port = []) := by decide
theorem witness_DecodeOfEncode : Instr.wellFormed (.wsetH 4) = true ∧ Instr.wellFormed (.wrRsvd 1 255) = true ∧
    decodeWire 0x10 = .ok (.wsetZ 4) := by decide
theorem witness_ReservedHostWordsIgnored :
    (0x1800 : HostWord) &&& 0x1800 = (0x1FFF : HostWord) &&& 0x1800 ∧ (0x1800 : HostWord) &&& 0x1800 ≠ 0x1000 := by decide
theorem witness_selected : select topoRef State.reset = .ok none ∧
    select topoRef (st #v[0, 0, 0, 0, 20] 5 4 allZ) = .ok (some ⟨4, 3⟩) := by decide
theorem witness_TickCommandTrace : select topo State.reset = .ok none := rfl
theorem witness_WireWordDomain : decodeWire 0x1F = .error (.wireOutsideDomain 7) ∧ decodeWire 0x11 = .error .reservedStateCode := by
  decide
theorem witness_Wset : (4 : WireIx).toNat < 5 ∧ (0 : WireIx).toNat < 5 ∧
    State.reset.wires[(4 : WireIx).toNat]? = some WireState.Z := by decide
theorem witness_WsetOutsideDomainRefused : 5 ≤ (5 : WireIx).toNat ∧ 5 ≤ (7 : WireIx).toNat := by decide
theorem witness_ReservedStateCodeRefused : (0x11 : WireWord) &&& 0b11 = 0b01 ∧ (0x1D : WireWord) &&& 0b11 = 0b01 := by decide
theorem witness_OnlyOwnersWrite : exec .tick State.reset = .next State.reset ∧ exec .idle State.reset = .next State.reset ∧
    exec (.wsetH 4) State.reset = .next { State.reset with wires := #v[.Z, .Z, .Z, .Z, .H] } ∧
    exec (.wrFb0 5) State.reset = .next { State.reset with fb := #v[5, 0, 0, 0, 0] } ∧
    exec (.wrAc 5) State.reset = .next { State.reset with ac := 5 } := ⟨rfl, rfl, rfl, rfl, rfl⟩
theorem witness_SlotUnderCursor : (st #v[0, 0, 0, 0, 0] 5 4 allZ).cur.toNat = (4 : Fin 5).val ∧
    (4 : Fin 5).val < (st #v[0, 0, 0, 0, 0] 5 4 allZ).ac.toNat ∧ 1 ≤ (20 : Byte).toNat ∧ (20 : Byte).toNat ≤ 20 := by decide
theorem witness_SlotAboveCount : (st #v[0, 0, 0, 0, 0] 4 3 allZ).ac.toNat ≤ (4 : Fin 5).val := by decide
theorem witness_TickNetEffect : (st #v[0, 0, 0, 0, 20] 5 4 allZ).cur.toNat < 5 ∧
    (st #v[0, 0, 0, 0, 20] 5 4 allZ).cur.toNat < (st #v[0, 0, 0, 0, 20] 5 4 allZ).ac.toNat ∧
    (st #v[0, 0, 0, 0, 20] 5 4 allZ).fb[4].toNat = 20 ∧
    ¬((st #v[0, 0, 0, 0, 21] 5 4 allZ).cur.toNat < 5 ∧ (st #v[0, 0, 0, 0, 21] 5 4 allZ).fb[4].toNat ≤ 20) ∧
    ¬(st #v[0, 0, 0, 0, 20] 4 4 allZ).cur.toNat < (st #v[0, 0, 0, 0, 20] 4 4 allZ).ac.toNat := by decide
theorem witness_TickStopsOnlyOutsideTheBuffer :
    (5 ≤ (st #v[0, 0, 0, 0, 0] 6 5 allZ).cur.toNat ∧
      (st #v[0, 0, 0, 0, 0] 6 5 allZ).cur.toNat < (st #v[0, 0, 0, 0, 0] 6 5 allZ).ac.toNat) ∧
    (st #v[0, 0, 0, 0, 0] 5 5 allZ).ac.toNat ≤ (st #v[0, 0, 0, 0, 0] 5 5 allZ).cur.toNat ∧
    (st #v[0, 0, 0, 0, 0] 255 4 allZ).cur.toNat < 5 := by decide
theorem witness_BlankReleasesEveryWire : blankCmds.reverse.Perm blankCmds := List.reverse_perm _
theorem witness_DriveMakesThePattern : topoRef.entry 20 = some ⟨4, 3⟩ ∧
    (driveCmds (some ⟨4, 3⟩)).reverse.Perm (driveCmds (some ⟨4, 3⟩)) := ⟨by decide, List.reverse_perm _⟩
theorem witness_EffectiveDivisor : (0 : Byte).toNat = 0 ∧ (1 ≤ (1 : Byte).toNat ∧ (1 : Byte).toNat ≤ 5) ∧
    (1 ≤ (5 : Byte).toNat ∧ (5 : Byte).toNat ≤ 5) ∧ 5 < (6 : Byte).toNat := by decide
theorem witness_TickAdvancesTheCursor : exec .tick State.reset = .next State.reset ∧ effectiveDivisor State.reset.ac = 1 ∧
    State.reset.cur.toNat + 1 = effectiveDivisor State.reset.ac ∧ State.reset.cur.toNat < 5 :=
  ⟨rfl, by decide⟩
theorem witness_ZeroCountShowsNothing : (st #v[5, 5, 5, 5, 5] 0 3 allZ).ac = 0 ∧
    ((st #v[5, 0, 0, 0, 0] 1 0 allZ).ac = 1 ∧ (st #v[5, 0, 0, 0, 0] 1 0 allZ).cur = 0 ∧
      (st #v[5, 0, 0, 0, 0] 1 0 allZ).fb[0] = 5) := by decide
theorem witness_CursorAboveCountIsDarkOnce : (st #v[1, 2, 3, 4, 6] 4 4 allZ).cur.toNat < 5 ∧
    1 ≤ (st #v[1, 2, 3, 4, 6] 4 4 allZ).ac.toNat ∧ (st #v[1, 2, 3, 4, 6] 4 4 allZ).ac.toNat ≤ 5 ∧
    (st #v[1, 2, 3, 4, 6] 4 4 allZ).ac.toNat ≤ (st #v[1, 2, 3, 4, 6] 4 4 allZ).cur.toNat := by decide
theorem witness_OutOfRangeIdentifierIgnored : (st #v[0, 0, 0, 0, 21] 5 4 allZ).cur.toNat < 5 ∧
    (st #v[0, 0, 0, 0, 21] 5 4 allZ).cur.toNat < (st #v[0, 0, 0, 0, 21] 5 4 allZ).ac.toNat ∧
    21 ≤ (st #v[0, 0, 0, 0, 21] 5 4 allZ).fb[4].toNat := by decide
theorem witness_LargeCountActsAsFive : (st #v[20, 255, 7, 0, 6] 6 4 allZ).cur.toNat < 5 ∧
    5 < (st #v[20, 255, 7, 0, 6] 6 4 allZ).ac.toNat := by decide
theorem witness_WritesAreIdempotent : readReg 5 State.reset = some 1 ∧ readReg 4 State.reset = some 0 := by decide
theorem witness_Pairs : (⟨4, 3⟩ : Entry).hi.toNat < 5 ∧ (⟨4, 3⟩ : Entry).lo.toNat < 5 ∧
    (⟨4, 3⟩ : Entry).hi ≠ (⟨4, 3⟩ : Entry).lo := by decide
theorem witness_Bytes : (0 : Byte) = 0 ∧ (1 ≤ (1 : Byte).toNat ∧ (1 : Byte).toNat ≤ 20) ∧
    (1 ≤ (20 : Byte).toNat ∧ (20 : Byte).toNat ≤ 20) ∧ 21 ≤ (21 : Byte).toNat ∧ 21 ≤ (255 : Byte).toNat := by decide
theorem witness_PinEncoding : (#v[.Z, .L, .H, .Z, .Z] : Pattern)[(0 : Fin 5)] = .Z ∧
    (#v[.Z, .L, .H, .Z, .Z] : Pattern)[(1 : Fin 5)] = .L ∧ (#v[.Z, .L, .H, .Z, .Z] : Pattern)[(2 : Fin 5)] = .H := by decide
theorem witness_PinsIdentifyTheLed : outputEnable (topoRef.pattern 20) = 0b11000 ∧
    outputLevel (topoRef.pattern 20) = 0b10000 ∧ topoRef.pattern 20 = #v[.Z, .Z, .Z, .L, .H] := by decide
theorem witness_LegalLightsAtMostOne : legal topoRef allZ = true ∧ legal topoRef #v[.Z, .Z, .Z, .L, .H] = true ∧
    legal topoRef #v[.H, .L, .H, .Z, .Z] = false := by decide
theorem witness_NextTickSeesTheWrite : (st #v[0, 0, 0, 0, 0] 5 4 allZ).cur.toNat < 5 ∧
    (st #v[0, 0, 0, 0, 0] 5 4 allZ).cur.toNat = (4 : Fin 5).val ∧
    (st #v[0, 0, 0, 0, 0] 0 3 allZ).cur.toNat < 5 := by decide
theorem witness_EveryOperationCompletes : Instr.wellFormed .tick = true ∧ Instr.wellFormed (.wsetH 4) = true ∧
    cursorInRange (st #v[0, 0, 0, 0, 0] 255 4 allZ) = true := by decide
theorem witness_EveryHostWordCompletes : State.reset.pending = [] ∧ State.reset.cur.toNat < 5 := by decide
theorem witness_InvariantsStep : quiet State.reset = true ∧ cursorInRange State.reset = true ∧
    step State.reset = .next State.reset ∧ microStep State.reset = .next State.reset := ⟨by decide, by decide, rfl, rfl⟩
theorem witness_CursorRangeKept : cursorInRange (st #v[0, 0, 0, 0, 0] 5 4 allZ) = true ∧
    step (present (.host 0x0800) (st #v[0, 0, 0, 0, 0] 5 4 allZ)) = .next (st #v[0, 0, 0, 0, 0] 5 0 allZ) :=
  ⟨by decide, rfl⟩
theorem witness_NoGhostBetweenCommands :
    legal topoRef #v[.Z, .H, .Z, .L, .Z] = true ∧ topoRef.entry 12 = some ⟨2, 4⟩ ∧
    performCmds ((blankCmds ++ driveCmds (some ⟨2, 4⟩)).take 1) #v[.Z, .H, .Z, .L, .Z] = .ok #v[.Z, .H, .Z, .L, .Z] ∧
    performCmds ((blankCmds ++ driveCmds (some ⟨2, 4⟩)).take 6) #v[.Z, .H, .Z, .L, .Z] = .ok #v[.Z, .Z, .H, .Z, .Z] ∧
    performCmds ((blankCmds ++ driveCmds (some ⟨2, 4⟩)).take 7) #v[.Z, .H, .Z, .L, .Z] = .ok #v[.Z, .Z, .H, .Z, .L] ∧
    performCmds ((blankCmds ++ driveCmds none).take 5) #v[.Z, .H, .Z, .L, .Z] = .ok allZ := by decide
theorem witness_NoGhostOrders : blankCmds.reverse.Perm blankCmds ∧
    (driveCmds (some ⟨2, 4⟩)).reverse.Perm (driveCmds (some ⟨2, 4⟩)) ∧
    6 ≤ (blankCmds.reverse ++ (driveCmds (some ⟨2, 4⟩)).reverse).length ∧
    performCmds ((blankCmds.reverse ++ (driveCmds (some ⟨2, 4⟩)).reverse).take 6) #v[.Z, .H, .Z, .L, .Z] =
      .ok #v[.Z, .Z, .Z, .Z, .L] := ⟨List.reverse_perm _, List.reverse_perm _, by decide, by decide⟩
theorem witness_TickInProgressKept :
    inTick topo { State.reset with pending := [0x00, 0x04, 0x08, 0x0C, 0x10] } ∧
    cursorInRange { State.reset with pending := [0x00, 0x04, 0x08, 0x0C, 0x10] } = true ∧
    microStep { State.reset with pending := [0x00, 0x04, 0x08, 0x0C, 0x10] } =
      .next { State.reset with pending := [0x04, 0x08, 0x0C, 0x10] } :=
  ⟨⟨allZ, none, 0, by decide, by simp, by decide, by decide, rfl⟩, by decide, rfl⟩
theorem witness_MicroStepsRefineTheStep : (State.reset.withFetchWord 16 0x0800).pending = [] ∧
    step (State.reset.withFetchWord 16 0x0800) = .next State.reset ∧
    microRun 6 (State.reset.withFetchWord 16 0x0800) = .next State.reset := ⟨rfl, rfl, rfl⟩
theorem witness_MicroStepsOfAWrite : (State.reset.withFetchWord 16 0x1005).port = [0x1005] ∧ decodeHost 0x1005 ≠ .tick ∧
    step (State.reset.withFetchWord 16 0x1005) = .next (st #v[5, 0, 0, 0, 0] 1 0 allZ) := ⟨rfl, by decide, rfl⟩
theorem witness_MicroStepsOfADarkTick : (State.reset.withFetchWord 16 0x0800).port = [0x0800] ∧ decodeHost 0x0800 = .tick ∧
    select topo (State.reset.withFetchWord 16 0x0800) = .ok none := ⟨rfl, by decide, rfl⟩
theorem witness_MicroStepsOfALitTick :
    ∃ e t, select topo ((st #v[5, 0, 0, 0, 0] 1 0 allZ).withFetchWord 16 0x0800) = .ok (some e) ∧
      step ((st #v[5, 0, 0, 0, 0] 1 0 allZ).withFetchWord 16 0x0800) = .next t :=
  ⟨_, _, rfl, tick_of_select topo (st #v[5, 0, 0, 0, 0] 1 0 allZ) _ rfl⟩
theorem witness_SteadyDisplay : 1 ≤ (st #v[1, 2, 3, 4, 6] 5 4 allZ).ac.toNat ∧ (st #v[1, 2, 3, 4, 6] 5 4 allZ).ac.toNat ≤ 5 ∧
    (st #v[1, 2, 3, 4, 6] 5 4 allZ).cur.toNat < (st #v[1, 2, 3, 4, 6] 5 4 allZ).ac.toNat := by decide
theorem witness_PublishShowsOldOrNew : quiet State.reset = true ∧ ([9] : List Byte).length ≤ 5 ∧
    ([.tick, .wrFb0 9].filter fun i => i ≠ Instr.tick) <+: publishFrame [9] ∧
    execList [.tick, .wrFb0 9] State.reset = .next (st #v[9, 0, 0, 0, 0] 1 0 allZ) :=
  ⟨by decide, by decide, by decide, rfl⟩
theorem witness_PublishedFrameIsShown : quiet State.reset = true ∧ ([9] : List Byte).length ≤ 5 ∧ ([9] : List Byte) ≠ [] ∧
    (∀ v ∈ ([9] : List Byte), 1 ≤ v.toNat ∧ v.toNat ≤ 20) ∧
    ((Instr.tick :: publishFrame [9]).filter fun i => i ≠ Instr.tick) = publishFrame [9] ∧
    execList (Instr.tick :: publishFrame [9]) State.reset = .next (st #v[9, 0, 0, 0, 0] 1 0 allZ) :=
  ⟨by decide, by decide, by decide, by decide, by decide, rfl⟩
theorem witness_NothingFlowsBack : State.reset.pending = [] ∧ ({ State.reset with cur := 4 } : State).pending = [] ∧
    State.reset.fb = ({ State.reset with cur := 4 } : State).fb ∧
    State.reset.ac = ({ State.reset with cur := 4 } : State).ac ∧
    State.reset.port = ({ State.reset with cur := 4 } : State).port ∧
    step State.reset = .next State.reset ∧
    step { State.reset with cur := 4 } = .next { State.reset with cur := 4 } := ⟨rfl, rfl, rfl, rfl, rfl, rfl, rfl⟩

end Sys2Proof.Tests
end

section
/-!
PROOFS. The reset state and the first TICK after it (10_state.md R28).
-/

namespace Sys2Proof.Machine

/-- With every wire released no wire is driven high. -/
theorem allZ_getElem?_ne_high (i : Nat) : allZ[i]? ≠ some .H := by
  have hz : allZ = Vector.replicate 5 .Z := rfl
  rw [hz, Vector.getElem?_replicate]
  split <;> simp

/-- No LED conducts while every wire is released: its drive-high wire is not high (R23, R24). -/
@[simp] theorem isLit_allZ (T : Topo) (k : Nat) : isLit T allZ k = false := by
  unfold isLit
  cases T.entry k with
  | none => rfl
  | some e => simp [allZ_getElem?_ne_high]

/-- The released pattern lights nothing, whatever the table (R23). -/
@[simp] theorem lit_allZ (T : Topo) : lit T allZ = [] := by
  simp [lit]

/-- The active slot 0 of the reset state holds 0, which selects no LED (R28, R78). -/
@[simp] theorem select_reset (T : Topo) : select T State.reset = .ok none := by
  have hentry : T.entry 0 = none := entry_of_invalid T 0 (by omega)
  simp [select, hentry]

/-- With the active count 1 the cursor of the reset state wraps to where it was (R28, R90). -/
theorem nextCursor_reset : nextCursor State.reset.cur State.reset.ac = 0 := by decide

/-- A tick from the reset state gives the reset state back, whatever the table (R28). -/
theorem tick_reset (T : Topo) : tick T State.reset = .next State.reset := by
  rw [tick_of_select T State.reset none (select_reset T), nextCursor_reset]
  rfl

/-- Settles O20: the values are read off the reset state, and the first TICK gives that same state back. -/
theorem resetStateValues : Obligations.ResetStateValues := by
  have hfirst : exec .tick State.reset = .next State.reset := tick_reset topo
  exact ⟨reset_fb, reset_ac, reset_cur, reset_wires,
    State.reset, hfirst, reset_wires, lit_allZ topo, reset_cur⟩

end Sys2Proof.Machine
end

section
/-!
PROOFS. Format C as arithmetic and as bit masks (30_encoding.md R50): a word is its three fields, masks act on each field
by itself, and the fields of a word are read off its value.
-/

namespace Sys2Proof

/-- A two-bit field, `cmd` of format C or `s` of format W, has four values (R51, R54). -/
theorem twoBits_cases (c : BitVec 2) : c = 0#2 ∨ c = 1#2 ∨ c = 2#2 ∨ c = 3#2 := by
  revert c; decide

/-- Every host word is made of three fields (R50). -/
theorem exists_hostWord (w : HostWord) : ∃ c a d, w = hostWord c a d :=
  ⟨_, _, _, (hostWord_fields w).symm⟩

/-- The fields of a word are unique (R50). -/
@[simp] theorem hostWord_inj {c c' : BitVec 2} {a a' : RegAddr} {d d' : Byte} :
    hostWord c a d = hostWord c' a' d' ↔ c = c' ∧ a = a' ∧ d = d' := by
  constructor
  · intro h
    refine ⟨?_, ?_, ?_⟩
    · simpa using congrArg HostWord.cmd h
    · simpa using congrArg HostWord.addr h
    · simpa using congrArg HostWord.data h
  · rintro ⟨rfl, rfl, rfl⟩
    rfl

/-- A mask acts on each field by itself. -/
theorem hostWord_and (c c' : BitVec 2) (a a' : RegAddr) (d d' : Byte) :
    hostWord c a d &&& hostWord c' a' d' = hostWord (c &&& c') (a &&& a') (d &&& d') := by
  have hca : (c ++ a) &&& (c' ++ a') = (c &&& c') ++ (a &&& a') := BitVec.and_append
  have hcad : (c ++ a ++ d) &&& (c' ++ a' ++ d') = ((c ++ a) &&& (c' ++ a')) ++ (d &&& d') := BitVec.and_append
  exact hcad.trans (by rw [hca]; rfl)

/-- The number a format-C word is (R50). -/
theorem hostWord_toNat (c : BitVec 2) (a : RegAddr) (d : Byte) :
    (hostWord c a d).toNat = c.toNat * 2048 + a.toNat * 256 + d.toNat := by
  have ha : a.toNat < 2 ^ 3 := a.isLt
  have hd : d.toNat < 2 ^ 8 := d.isLt
  rw [hostWord, BitVec.toNat_append, BitVec.toNat_append, ← Nat.shiftLeft_add_eq_or_of_lt ha,
    ← Nat.shiftLeft_add_eq_or_of_lt hd, Nat.shiftLeft_eq, Nat.shiftLeft_eq]
  omega

/-- The data byte is added to the rest of the word (R52). -/
theorem hostWord_eq_add_data (c : BitVec 2) (a : RegAddr) (d : Byte) :
    hostWord c a d = hostWord c a 0 + d.zeroExtend 13 := by
  have hc : c.toNat < 4 := c.isLt
  have ha : a.toNat < 8 := a.isLt
  have hd : d.toNat < 256 := d.isLt
  apply BitVec.eq_of_toNat_eq
  simp [hostWord_toNat]
  omega

/-- The word of a write is `0x1000 + (a << 8) + d` (R51). -/
theorem hostWord_write_eq_add (a : RegAddr) (d : Byte) :
    hostWord 2 a d = 0x1000 + (a.zeroExtend 13 <<< 8) + d.zeroExtend 13 := by
  have ha : hostWord 2 a 0 = 0x1000 + (a.zeroExtend 13 <<< 8) := by revert a; decide
  rw [hostWord_eq_add_data, ha]

/-- A mask that takes all of `cmd` and none of `d`, as those of R51 and R52 do, keeps `cmd` and masks `a`. -/
theorem hostWord_and_mask (c : BitVec 2) (a m : RegAddr) (d : Byte) :
    hostWord c a d &&& hostWord 3 m 0 = hostWord c (a &&& m) 0 := by
  have hc : c &&& 3 = c := BitVec.and_allOnes
  have hd : d &&& 0 = 0 := BitVec.and_zero
  rw [hostWord_and, hc, hd]

/-- The mask `0x1800` keeps the `cmd` field (R51). -/
@[simp] theorem hostWord_and_cmdMask (c : BitVec 2) (a : RegAddr) (d : Byte) :
    hostWord c a d &&& 0x1800 = hostWord c 0 0 := by
  have ha : a &&& 0 = 0 := BitVec.and_zero
  exact (hostWord_and_mask c a 0 d).trans (by rw [ha])

/-- The mask `0x1F00` keeps the `cmd` and `a` fields (R52). -/
@[simp] theorem hostWord_and_addrMask (c : BitVec 2) (a : RegAddr) (d : Byte) :
    hostWord c a d &&& 0x1F00 = hostWord c a 0 := by
  have ha : a &&& 7 = a := BitVec.and_allOnes
  exact (hostWord_and_mask c a 7 d).trans (by rw [ha])

/-- The mask `0x1E00` keeps the `cmd` field and the upper two bits of `a` (R52). -/
@[simp] theorem hostWord_and_reservedMask (c : BitVec 2) (a : RegAddr) (d : Byte) :
    hostWord c a d &&& 0x1E00 = hostWord c (a &&& 6) 0 :=
  hostWord_and_mask c a 6 d

end Sys2Proof
end

section
/-!
PROOFS. Which host words decode to which operation (30_encoding.md R51, R52, R59).
-/

namespace Sys2Proof

open Sys2Proof.Machine

/-- The operation of a write is none of the other three classes (R51). -/
theorem decodeWrite_ne (a : RegAddr) (d : Byte) :
    decodeWrite a d ≠ .idle ∧ decodeWrite a d ≠ .tick ∧ decodeWrite a d ≠ .reset := by
  rcases regAddr_cases a with rfl | rfl | rfl | rfl | rfl | rfl | rfl | rfl <;> simp [decodeWrite]

theorem decodeHost_eq_idle_iff (c : BitVec 2) (a : RegAddr) (d : Byte) :
    decodeHost (hostWord c a d) = .idle ↔ c = 0 := by
  have hw := decodeWrite_ne a d
  rcases twoBits_cases c with rfl | rfl | rfl | rfl <;> simp [hw]

theorem decodeHost_eq_tick_iff (c : BitVec 2) (a : RegAddr) (d : Byte) :
    decodeHost (hostWord c a d) = .tick ↔ c = 1 := by
  have hw := decodeWrite_ne a d
  rcases twoBits_cases c with rfl | rfl | rfl | rfl <;> simp [hw]

theorem decodeHost_eq_reset_iff (c : BitVec 2) (a : RegAddr) (d : Byte) :
    decodeHost (hostWord c a d) = .reset ↔ c = 3 := by
  have hw := decodeWrite_ne a d
  rcases twoBits_cases c with rfl | rfl | rfl | rfl <;> simp [hw]

/-- The words `0x1000 + (a << 8) + d`, and only they, have the class WR (R51). -/
theorem cmd_eq_write_iff (c : BitVec 2) (a : RegAddr) (d : Byte) :
    c = 2 ↔ ∃ (a' : RegAddr) (d' : Byte), hostWord c a d = 0x1000 + (a'.zeroExtend 13 <<< 8) + d'.zeroExtend 13 ∧
      decodeHost (hostWord c a d) = decodeWrite a' d' := by
  constructor
  · rintro rfl
    exact ⟨a, d, hostWord_write_eq_add a d, decodeHost_write a d⟩
  · rintro ⟨a', d', h, -⟩
    rw [← hostWord_write_eq_add] at h
    exact (hostWord_inj.mp h).1

/-- The mask `0x1800` matches the canonical word of a class exactly for the words of that class (R51). -/
theorem and_cmdMask_eq_iff (c k : BitVec 2) (a : RegAddr) (d : Byte) :
    hostWord c a d &&& 0x1800 = hostWord k 0 0 ↔ c = k := by
  rw [hostWord_and_cmdMask, hostWord_inj]
  simp

/-- Settles O4: in terms of its fields, each match of the mask `0x1800` and each decoding says what `cmd` is. -/
theorem hostCommandClass : Obligations.HostCommandClass := by
  refine ⟨fun w => ?_, by decide, by decide, by decide⟩
  obtain ⟨c, a, d, rfl⟩ := exists_hostWord w
  refine ⟨?_, ?_, ?_, ?_⟩
  · exact (and_cmdMask_eq_iff c 0 a d).trans (decodeHost_eq_idle_iff c a d).symm
  · exact (and_cmdMask_eq_iff c 1 a d).trans (decodeHost_eq_tick_iff c a d).symm
  · exact (and_cmdMask_eq_iff c 3 a d).trans (decodeHost_eq_reset_iff c a d).symm
  · exact (and_cmdMask_eq_iff c 2 a d).trans (cmd_eq_write_iff c a d)

/-- One row of the table of R52: the mask `0x1F00` matches exactly the address's words, one for each data byte. -/
theorem and_addrMask_eq_iff (w : HostWord) (a : RegAddr) :
    w &&& 0x1F00 = hostWord 2 a 0 ↔
      ∃ d : Byte, w = hostWord 2 a 0 + d.zeroExtend 13 ∧ decodeHost w = decodeWrite a d := by
  constructor
  · obtain ⟨c, a', d, rfl⟩ := exists_hostWord w
    intro h
    rw [hostWord_and_addrMask, hostWord_inj] at h
    obtain ⟨rfl, rfl, -⟩ := h
    exact ⟨d, hostWord_eq_add_data 2 a' d, decodeHost_write a' d⟩
  · rintro ⟨d, rfl, -⟩
    rw [← hostWord_eq_add_data, hostWord_and_addrMask]

/-- The reserved row's mask `0x1E00` matches the words of the addresses 6 and 7 (R52). -/
theorem and_reservedMask_eq_iff (w : HostWord) :
    w &&& 0x1E00 = 0x1600 ↔ w &&& 0x1F00 = hostWord 2 6 0 ∨ w &&& 0x1F00 = hostWord 2 7 0 := by
  obtain ⟨c, a, d, rfl⟩ := exists_hostWord w
  have haddr : a &&& 6 = 6 ↔ a = 6 ∨ a = 7 := by revert a; decide
  have hmatch : (0x1600 : HostWord) = hostWord 2 6 0 := by decide
  rw [hmatch, hostWord_and_reservedMask, hostWord_and_addrMask]
  simp only [hostWord_inj, haddr]
  tauto

/-- The slot write of an index is the write to that address (R52: `i = a`). -/
theorem decodeWrite_slot (i : Fin 5) (d : Byte) : decodeWrite (BitVec.ofNat 3 i.val) d = slotWrite i d := by
  fin_cases i <;> rfl

/-- Settles O5: every row but the last is the general one at its address, and the last is those of 6 and 7 together. -/
theorem hostWriteAddress : Obligations.HostWriteAddress := by
  refine ⟨fun w => ⟨and_addrMask_eq_iff w 0, and_addrMask_eq_iff w 1, and_addrMask_eq_iff w 2,
    and_addrMask_eq_iff w 3, and_addrMask_eq_iff w 4, and_addrMask_eq_iff w 5, ?_⟩, fun i d => ?_⟩
  · rw [and_reservedMask_eq_iff, and_addrMask_eq_iff, and_addrMask_eq_iff, ← exists_or]
    rfl
  · exact (decodeHost_write _ d).trans (decodeWrite_slot i d)

/-- The reserved words are the writes to the addresses 6 and 7 (R52, R59). -/
theorem decodeHost_eq_wrRsvd_iff (c : BitVec 2) (a : RegAddr) (d : Byte) :
    (∃ b d', decodeHost (hostWord c a d) = .wrRsvd b d') ↔ c = 2 ∧ 6 ≤ a.toNat := by
  rcases twoBits_cases c with rfl | rfl | rfl | rfl
  case inr.inr.inl =>
    rcases regAddr_cases a with rfl | rfl | rfl | rfl | rfl | rfl | rfl | rfl <;> simp [decodeWrite]
  all_goals simp

/-- By their fields, the words from `0x1600` to `0x17FF` are the writes to the addresses 6 and 7 (R59). -/
theorem hostWord_reserved_range (c : BitVec 2) (a : RegAddr) (d : Byte) :
    0x1600 ≤ (hostWord c a d).toNat ∧ (hostWord c a d).toNat ≤ 0x17FF ↔ c = 2 ∧ 6 ≤ a.toNat := by
  have ha : a.toNat < 8 := a.isLt
  have hd : d.toNat < 256 := d.isLt
  have hc : c = 2 ↔ c.toNat = 2 := BitVec.toNat_inj.symm
  rw [hostWord_toNat, hc]
  omega

/-- A write's operation is well formed and of the host command space, whatever the address (R59). -/
theorem decodeWrite_isHost (a : RegAddr) (d : Byte) :
    (decodeWrite a d).wellFormed = true ∧ ∃ v, encode (decodeWrite a d) = .host v := by
  rcases regAddr_cases a with rfl | rfl | rfl | rfl | rfl | rfl | rfl | rfl <;> exact ⟨rfl, _, rfl⟩

/-- Every host word's operation is well formed and of the host command space (R59). -/
theorem decodeHost_isHost (w : HostWord) :
    (decodeHost w).wellFormed = true ∧ ∃ v, encode (decodeHost w) = .host v := by
  obtain ⟨c, a, d, rfl⟩ := exists_hostWord w
  rcases twoBits_cases c with rfl | rfl | rfl | rfl
  · rw [decodeHost_idle]; exact ⟨rfl, _, rfl⟩
  · rw [decodeHost_tick]; exact ⟨rfl, _, rfl⟩
  · rw [decodeHost_write]; exact decodeWrite_isHost a d
  · rw [decodeHost_reset]; exact ⟨rfl, _, rfl⟩

/-- A reserved write leaves every state as it is (R37, R59). -/
theorem exec_wrRsvd (b : BitVec 1) (d : Byte) (s : State) : exec (.wrRsvd b d) s = .next s := by
  rcases BitVec.eq_zero_or_eq_one b with rfl | rfl <;> rfl

/-- Outside WR the operation depends on the `cmd` field alone (R50, R59). -/
theorem decodeHost_ignores_fields (c : BitVec 2) (a a' : RegAddr) (d d' : Byte) (h : c ≠ 2) :
    decodeHost (hostWord c a d) = decodeHost (hostWord c a' d') := by
  rcases twoBits_cases c with rfl | rfl | rfl | rfl
  case inr.inr.inl => exact absurd rfl h
  all_goals simp

/-- Settles O6: the reserved range and the decoder are both read off the fields. -/
theorem reservedHostWordsIgnored : Obligations.ReservedHostWordsIgnored := by
  refine ⟨fun w => ⟨?_, decodeHost w, rfl, decodeHost_isHost w⟩, exec_wrRsvd, fun v w hvw hne => ?_⟩
  · obtain ⟨c, a, d, rfl⟩ := exists_hostWord w
    exact (hostWord_reserved_range c a d).trans (decodeHost_eq_wrRsvd_iff c a d).symm
  · obtain ⟨c, a, d, rfl⟩ := exists_hostWord v
    obtain ⟨c', a', d', rfl⟩ := exists_hostWord w
    rw [hostWord_and_cmdMask c' a' d', and_cmdMask_eq_iff] at hvw
    subst hvw
    exact decodeHost_ignores_fields c a a' d d' fun hc => hne ((and_cmdMask_eq_iff c 2 a d).mpr hc)

end Sys2Proof
end

section
/-!
PROOFS. The words of the Wire Driver: which are refused, and that the engine forms none of them (30_encoding.md R60).
-/

namespace Sys2Proof.Machine

/-- A wire word is rejected for one of two reasons: the reserved state code or a wire outside the domain (R60). -/
theorem decodeWire_error_iff (w : WireWord) :
    (∃ e, decodeWire w = .error e) ↔ WireWord.code w = 1 ∨ 5 ≤ (WireWord.wire w).toNat := by
  unfold decodeWire WireIx.inDomain
  by_cases hw : (WireWord.wire w).toNat < 5
  · have hdom : ¬5 ≤ (WireWord.wire w).toNat := by omega
    rcases twoBits_cases (WireWord.code w) with h | h | h | h <;> simp [hw, hdom, h]
  · have hdom : 5 ≤ (WireWord.wire w).toNat := by omega
    simp [hw, hdom]

/-- A step on a rejected wire word is refused in every state (R60, R69, R70). -/
theorem step_present_wire_error (w : WireWord) (s : State) (e : DecodeError) (h : decodeWire w = .error e) :
    step (present (.wire w) s) = .refused (refusalOf e) := by
  simp [step, fetch, present, h]

/-- The blanking commands name wires of the driver's domain (R86). -/
theorem blankCmds_wire_lt (c : WireCmd) (h : c ∈ blankCmds) : c.wire.toNat < 5 := by
  revert c; decide

/-- A tick whose selection names two wires commands only wires of the driver's domain (R93). -/
theorem tickTrace_wire_lt (sel : Option Entry) (hsel : ∀ e, sel = some e → e.hi.toNat < 5 ∧ e.lo.toNat < 5)
    (c : WireCmd) (h : c ∈ tickTrace sel) : c.wire.toNat < 5 := by
  rcases List.mem_append.mp h with hblank | hdrive
  · exact blankCmds_wire_lt c hblank
  · cases sel with
    | none => cases hdrive
    | some e =>
      obtain ⟨hhi, hlo⟩ := hsel e rfl
      have hc : c = ⟨e.hi, .H⟩ ∨ c = ⟨e.lo, .L⟩ := by simpa [driveCmds] using hdrive
      rcases hc with rfl | rfl
      · exact hhi
      · exact hlo

/-- The wires of what SELECT answers are in the driver's domain (R75, R87). -/
theorem select_wires_lt (T : Topo) (s : State) (sel : Option Entry) (h : select T s = .ok sel) (e : Entry)
    (he : sel = some e) : e.hi.toNat < 5 ∧ e.lo.toNat < 5 := by
  obtain ⟨k, hk⟩ := select_entry T s e (he ▸ h)
  obtain ⟨hhi, hlo, -⟩ := entry_wires T k e hk
  exact ⟨hhi, hlo⟩

/-- Settles O7: the two reasons for a rejection, the step that refuses it, the two counts over all 32 words, and the
engine's commands, whose wires are all in the domain. -/
theorem wireWordDomain : Obligations.WireWordDomain := by
  refine ⟨fun w => ⟨decodeWire_error_iff w, fun s ⟨e, he⟩ => ⟨_, step_present_wire_error w s e he⟩⟩,
    by decide, by decide, fun T s sel h c hc => ?_⟩
  exact decodeWire_wordOfCmd c (tickTrace_wire_lt sel (select_wires_lt T s sel h) c hc)

end Sys2Proof.Machine
end

section
/-!
PROOFS. The pins of a pattern (30_encoding.md R57).
-/

namespace Sys2Proof.Machine

/-- Bit `w` of the vector of the codes' bits `i` is bit `i` of the code of wire `w` (R57). -/
theorem codeBits_getLsbD (i : Nat) (p : Pattern) (w : Fin 5) : (codeBits i p).getLsbD w = p[w].code.getLsbD i := by
  simp only [codeBits, BitVec.getLsbD_append, BitVec.getLsbD_ofBool]
  fin_cases w <;> simp

/-- The output enable of a wire is set exactly where it is driven (R57). -/
@[simp] theorem outputEnable_getLsbD (p : Pattern) (w : Fin 5) :
    (outputEnable p).getLsbD w = decide (p[w] ≠ .Z) := by
  rw [outputEnable, codeBits_getLsbD]
  cases p[w] <;> rfl

/-- The level of a wire is set exactly where it is driven high (R57). -/
@[simp] theorem outputLevel_getLsbD (p : Pattern) (w : Fin 5) : (outputLevel p).getLsbD w = decide (p[w] = .H) := by
  rw [outputLevel, codeBits_getLsbD]
  cases p[w] <;> rfl

/-- Settles O28: both pins of a wire are functions of that wire's state alone. -/
theorem pinEncoding : Obligations.PinEncoding := by
  refine ⟨fun p w => ?_, by decide, by decide⟩
  rw [outputEnable_getLsbD, outputLevel_getLsbD]
  cases p[w] <;> simp

end Sys2Proof.Machine
end

section
/-!
PROOFS. The words of the pseudo-instructions (30_encoding.md R64) and the classes of a frame-buffer byte (R56).
-/

namespace Sys2Proof.Machine

/-- The words a publication presents, slots in ascending order and the count last (R64). -/
theorem hostWords_publish (frame : List Byte) (n : Byte) :
    hostWords (publish frame n) =
      [hostWord 2 0 (frame.getD 0 0), hostWord 2 1 (frame.getD 1 0), hostWord 2 2 (frame.getD 2 0),
        hostWord 2 3 (frame.getD 3 0), hostWord 2 4 (frame.getD 4 0), hostWord 2 5 n] := rfl

/-- Every tick presents one word (R64). -/
theorem hostWords_ticks (r : Nat) : hostWords (ticks r) = List.replicate r (hostWord 1 0 0) :=
  List.filterMap_replicate_of_some rfl

/-- Settles O59: every word of a publication is its address's base word plus the data byte. -/
theorem pseudoInstructionWords : Obligations.PseudoInstructionWords := by
  refine ⟨fun frame n _ => ⟨?_, rfl⟩, by decide, hostWords_ticks⟩
  simp only [hostWords_publish, hostWord_write_eq_add]
  rfl

/-- The drive commands of a byte that is no identifier: none (R56, R88). -/
theorem driveCmds_lookup_invalid (T : Topo) (v : Byte) (h : ¬(1 ≤ v.toNat ∧ v.toNat ≤ 20)) :
    driveCmds (lookup T v) = [] := by
  rw [lookup_eq_entry, entry_of_invalid T _ h]; rfl

/-- Settles O26: the class is the byte's range, and the entry is the table's exactly for 1 to 20. -/
theorem byteClasses : Obligations.ByteClasses := by
  refine fun T v => ⟨fun h => ⟨?_, ?_⟩, fun h => ⟨?_, ?_⟩, fun h => ⟨?_, ?_⟩⟩
  · simp [classify, h]
  · exact driveCmds_lookup_invalid T v (by omega)
  · simp [classify, h, show v.toNat ≠ 0 by omega]
  · rw [lookup_eq_entry, entry_of_valid T _ h]; rfl
  · simp [classify, show v.toNat ≠ 0 by omega, show ¬v.toNat ≤ 20 by omega]
  · rw [lookup_eq_entry, lookup_eq_entry, entry_of_invalid T v.toNat (by omega), entry_of_invalid T _ (by decide)]

end Sys2Proof.Machine
end

section
/-!
PROOFS. The Wire Driver's commands on the machine (40_wire_driver.md R65 to R70): what one command does to its wire, to the
rest of the state and to the pins, and which commands are refused.
-/

namespace Sys2Proof.Machine

/-- A format-W word is `(w << 2) + s` (R53). -/
theorem wireWord_eq_shift_add (w : WireIx) (c : BitVec 2) : wireWord w c = (w.zeroExtend 5 <<< 2) + c.zeroExtend 5 := by
  revert w c; decide

@[simp] theorem wireWord_wire (w : WireIx) (c : BitVec 2) : WireWord.wire (wireWord w c) = w :=
  BitVec.extractLsb'_append_eq_left

@[simp] theorem wireWord_code (w : WireIx) (c : BitVec 2) : WireWord.code (wireWord w c) = c :=
  BitVec.extractLsb'_append_eq_right

/-- The mask `0b11` keeps the state code (R53). -/
theorem and_codeMask_eq_iff (w : WireWord) : w &&& 0b11 = 0b01 ↔ WireWord.code w = 1 := by
  revert w; decide

/-- In its domain the Wire Driver performs every command, whatever the wires are (R65). -/
theorem driveWire_inDomain (w : WireIx) (x : WireState) (s : State) (h : w.toNat < 5) :
    driveWire w x s = .next { s with wires := s.wires.set w.toNat x } := by
  simp [driveWire, h]

/-- Outside its domain the Wire Driver refuses every command (R69). -/
theorem driveWire_outside (w : WireIx) (x : WireState) (s : State) (h : 5 ≤ w.toNat) :
    driveWire w x s = .refused (.wireOutsideDomain w) := by
  simp [driveWire, h]

/-- The output enable of a wire just set (R57). -/
theorem outputEnable_set_self (p : Pattern) (n : Nat) (x : WireState) (h : n < 5) :
    (outputEnable (p.set n x)).getLsbD n = decide (x ≠ .Z) := by
  have hpin := outputEnable_getLsbD (p.set n x) ⟨n, h⟩
  simpa using hpin

/-- The level of a wire just set (R57). -/
theorem outputLevel_set_self (p : Pattern) (n : Nat) (x : WireState) (h : n < 5) :
    (outputLevel (p.set n x)).getLsbD n = decide (x = .H) := by
  have hpin := outputLevel_getLsbD (p.set n x) ⟨n, h⟩
  simpa using hpin

/-- Setting a wire to the state it has already changes no wire (R66). -/
theorem set_wire_of_getElem? (p : Pattern) (n : Nat) (x : WireState) (h : n < 5) (hx : p[n]? = some x) :
    p.set n x = p := by
  obtain ⟨_, rfl⟩ := Vector.getElem?_eq_some_iff.mp hx
  exact Vector.set_getElem_self h

/-- What a command does in the driver's domain: its wire and that wire's pins take the state commanded, the other wires and
the rest of the machine keep theirs (R65 to R68). -/
theorem driveWire_effect (w : WireIx) (x : WireState) (s : State) (h : w.toNat < 5) :
    ∃ t, driveWire w x s = .next t ∧ t = { s with wires := t.wires } ∧ t.wires[w.toNat]? = some x ∧
      (∀ j, j ≠ w.toNat → t.wires[j]? = s.wires[j]?) ∧ (s.wires[w.toNat]? = some x → t = s) ∧
      (outputEnable t.wires).getLsbD w.toNat = decide (x ≠ .Z) ∧
      (outputLevel t.wires).getLsbD w.toNat = decide (x = .H) := by
  refine ⟨_, driveWire_inDomain w x s h, rfl, Vector.getElem?_set_self h, fun j hj => ?_, fun hx => ?_,
    outputEnable_set_self s.wires w.toNat x h, outputLevel_set_self s.wires w.toNat x h⟩
  · exact Vector.getElem?_set_ne h hj.symm
  · rw [set_wire_of_getElem? s.wires w.toNat x h hx]

/-- Every tick releases every wire (R86, R93). -/
theorem release_mem_tickTrace (w : WireIx) (sel : Option Entry) (h : w.toNat < 5) : ⟨w, .Z⟩ ∈ tickTrace sel := by
  have hblank : ⟨w, .Z⟩ ∈ blankCmds := by revert w; decide
  exact List.mem_append_left _ hblank

/-- Settles O8: the effect of the command for `Z`, and the tick's blanking commands. -/
theorem wsetReleasesOneWire : Obligations.WsetReleasesOneWire := by
  intro w s h
  obtain ⟨t, hexec, hframe, hwire, hothers, hsame, henable, hlevel⟩ := driveWire_effect w .Z s h
  have hword : wireWord w 0 = w.zeroExtend 5 <<< 2 := (wireWord_eq_shift_add w 0).trans (BitVec.add_zero _)
  exact ⟨congrArg CommandWord.wire hword, t, hexec, hframe, hwire, hothers, hsame, henable, hlevel,
    fun sel => release_mem_tickTrace w sel h⟩

/-- Settles O9: the effect of the command for `L`. -/
theorem wsetDrivesOneWireLow : Obligations.WsetDrivesOneWireLow := by
  intro w s h
  obtain ⟨t, hexec, hframe, hwire, hothers, -, henable, hlevel⟩ := driveWire_effect w .L s h
  exact ⟨congrArg CommandWord.wire (wireWord_eq_shift_add w 2), t, hexec, hframe, hwire, hothers, henable, hlevel⟩

/-- Settles O10: the effect of the command for `H`. -/
theorem wsetDrivesOneWireHigh : Obligations.WsetDrivesOneWireHigh := by
  intro w s h
  obtain ⟨t, hexec, hframe, hwire, hothers, -, henable, hlevel⟩ := driveWire_effect w .H s h
  exact ⟨congrArg CommandWord.wire (wireWord_eq_shift_add w 3), t, hexec, hframe, hwire, hothers, henable, hlevel⟩

/-- Settles O11: the driver refuses the wire whatever the state commanded, and an admissible table names no such wire. -/
theorem wsetOutsideDomainRefused : Obligations.WsetOutsideDomainRefused := by
  refine ⟨fun w s h => ⟨?_, ?_, ?_⟩, fun T s sel hsel c hc => ?_⟩
  · exact driveWire_outside w .Z s h
  · exact driveWire_outside w .L s h
  · exact driveWire_outside w .H s h
  · exact tickTrace_wire_lt sel (select_wires_lt T s sel hsel) c hc

/-- Where the wire is in the domain, the reserved code alone is the reason for the rejection (R70). -/
theorem decodeWire_reservedCode (w : WireIx) (h : w.toNat < 5) :
    decodeWire (wireWord w 1) = .error .reservedStateCode := by
  simp [decodeWire, WireIx.inDomain, h]

/-- No wire state has the reserved code (R54). -/
theorem code_ne_reserved (x : WireState) : x.code ≠ 1 := by
  cases x <;> decide

/-- Settles O12: the low two bits are the state code, whose value 1 the decoder rejects and no wire state has. -/
theorem reservedStateCodeRefused : Obligations.ReservedStateCodeRefused := by
  refine ⟨fun w s hw => ?_, fun w s h => ?_, fun _ _ _ _ c _ hcode => ?_⟩
  · obtain ⟨e, he⟩ := (decodeWire_error_iff w).mpr (.inl ((and_codeMask_eq_iff w).mp hw))
    exact ⟨_, step_present_wire_error w s e he⟩
  · exact step_present_wire_error (wireWord w 1) s _ (decodeWire_reservedCode w h)
  · rw [and_codeMask_eq_iff, wordOfCmd, wireWord_code] at hcode
    exact code_ne_reserved c.state hcode

end Sys2Proof.Machine
end

section
/-!
PROOFS. The topology map: the reference table (41_topology_map.md R77) and LOOKUP on every byte (R78).
-/

namespace Sys2Proof.Machine

/-- The wires of each reference entry, by its address (R77). -/
theorem topoRefTable_wires (p : Fin 20) :
    topoRefTable[p].hi.toNat = p.val / 4 ∧
      topoRefTable[p].lo.toNat = if p.val % 4 < p.val / 4 then p.val % 4 else p.val % 4 + 1 := by
  revert p; decide

/-- A byte that is no LED identifier selects nothing (R78). -/
theorem lookup_of_invalid (T : Topo) (v : Byte) (h : ¬(1 ≤ v.toNat ∧ v.toNat ≤ 20)) : lookup T v = none :=
  (lookup_eq_entry T v).trans (entry_of_invalid T v.toNat h)

/-- An LED identifier selects its entry, which stands one address below it (R55, R78). -/
theorem lookup_of_valid (T : Topo) (v : Byte) (h : 1 ≤ v.toNat ∧ v.toNat ≤ 20) :
    lookup T v = some T.table[v.toNat - 1] :=
  (lookup_eq_entry T v).trans (entry_of_valid T v.toNat h)

/-- Settles O23: the formula is checked at the 20 addresses, and the bytes are the entries' words in order. -/
theorem referenceTable : Obligations.ReferenceTable :=
  ⟨topoRef.wf, topoRefTable_wires, by decide⟩

/-- Settles O25: 0 and the bytes from 21 up are no identifiers, and 1 to 20 are. -/
theorem lookupOnEveryByte : Obligations.LookupOnEveryByte := by
  refine fun T v => ⟨?_, lookup_of_valid T v, fun h => ?_⟩
  · rintro rfl
    exact lookup_of_invalid T 0 (by decide)
  · exact lookup_of_invalid T v (by omega)

end Sys2Proof.Machine
end

section
/-!
PROOFS. BLANK and DRIVE (42_multiplex_engine.md R86, R88, R91): the order of commands to different wires does not matter,
and what a pattern must have for an LED to be lit.
-/

namespace Sys2Proof.Machine

/-- In the driver's domain the first command sets its wire, and the others follow (R65). -/
theorem performCmds_cons (c : WireCmd) (l : List WireCmd) (p : Pattern) (h : c.wire.toNat < 5) :
    performCmds (c :: l) p = performCmds l (p.set c.wire.toNat c.state) := by
  simp [performCmds, h]

/-- Two commands to different wires may change places. -/
theorem performCmds_swap (c d : WireCmd) (l : List WireCmd) (p : Pattern) (hc : c.wire.toNat < 5)
    (hd : d.wire.toNat < 5) (hne : c.wire ≠ d.wire) :
    performCmds (c :: d :: l) p = performCmds (d :: c :: l) p := by
  have hne : c.wire.toNat ≠ d.wire.toNat := mt BitVec.eq_of_toNat_eq hne
  rw [performCmds_cons c _ p hc, performCmds_cons d _ _ hd, performCmds_cons d _ p hd, performCmds_cons c _ _ hc,
    Vector.set_comm c.state d.state hne]

/-- Commands that agree wherever they name the same wire leave the same pattern in every order. -/
theorem performCmds_perm (l m : List WireCmd) (hperm : l.Perm m) (hdom : ∀ c ∈ l, c.wire.toNat < 5)
    (hagree : ∀ c ∈ l, ∀ d ∈ l, c.wire = d.wire → c = d) (p : Pattern) : performCmds l p = performCmds m p := by
  induction hperm generalizing p with
  | nil => rfl
  | cons c _ ih =>
    have hc := hdom c List.mem_cons_self
    rw [performCmds_cons c _ p hc, performCmds_cons c _ p hc]
    exact ih (fun d hd => hdom d (.tail c hd)) (fun d hd e he => hagree d (.tail c hd) e (.tail c he)) _
  | swap c d l =>
    by_cases hwire : d.wire = c.wire
    · rw [hagree d (by simp) c (by simp) hwire]
    · exact performCmds_swap d c l p (hdom d (by simp)) (hdom c (by simp)) hwire
  | trans hfirst _ ih ih' =>
    have hmem : ∀ c, c ∈ _ → c ∈ _ := fun c => hfirst.mem_iff.mpr
    exact (ih hdom hagree p).trans
      (ih' (fun c hc => hdom c (hmem c hc)) (fun c hc d hd => hagree c (hmem c hc) d (hmem d hd)) p)

/-- Whatever order they are performed in, the blanking commands release every wire (R86). -/
theorem performCmds_of_perm_blank (l : List WireCmd) (p : Pattern) (h : l.Perm blankCmds) :
    performCmds l p = .ok allZ :=
  calc performCmds l p = performCmds blankCmds p :=
        (performCmds_perm blankCmds l h.symm (by decide) (by decide) p).symm
    _ = .ok allZ := performCmds_blank p

/-- In either order, the drive commands make the pattern of their pair (R88). -/
theorem performCmds_of_perm_drive (e : Entry) (l : List WireCmd) (hhi : e.hi.toNat < 5) (hlo : e.lo.toNat < 5)
    (hne : e.hi ≠ e.lo) (h : l.Perm (driveCmds (some e))) : performCmds l allZ = .ok (pairdec e) :=
  calc performCmds l allZ = performCmds (driveCmds (some e)) allZ :=
        (performCmds_perm _ l h.symm (by simp [driveCmds, hhi, hlo]) (by simp [driveCmds, hne, hne.symm]) allZ).symm
    _ = .ok (pairdec e) := performCmds_drive e hhi hlo hne

/-- A pattern without a high wire, or without a low one, lights nothing (R24). -/
theorem lit_eq_nil (T : Topo) (p : Pattern) (h : ∀ i j : Nat, p[i]? = some .H → p[j]? ≠ some .L) : lit T p = [] := by
  refine List.filter_eq_nil_iff.mpr fun k _ => ?_
  unfold isLit
  cases T.entry k with
  | none => simp
  | some e => simpa using h e.hi.toNat e.lo.toNat

/-- A wire that is driven after one command on the released pattern has the state commanded. -/
theorem set_allZ_getElem? (w : Nat) (x y : WireState) (hw : w < 5) (j : Nat) (hy : y ≠ .Z)
    (h : (allZ.set w x)[j]? = some y) : y = x := by
  have hz : allZ = Vector.replicate 5 .Z := rfl
  rw [hz, Vector.getElem?_set, Vector.getElem?_replicate] at h
  split at h
  · exact (Option.some.inj h).symm
  · split at h
    · exact absurd (Option.some.inj h).symm hy
    · cases h

/-- One command alone on the released pattern lights nothing (R88). -/
theorem lit_set_allZ (T : Topo) (w : Nat) (x : WireState) (hw : w < 5) : lit T (allZ.set w x) = [] := by
  refine lit_eq_nil T _ fun i j hi hj => ?_
  have hhigh : .H = x := set_allZ_getElem? w x .H hw i (by decide) hi
  have hlow : .L = x := set_allZ_getElem? w x .L hw j (by decide) hj
  cases hhigh.trans hlow.symm

/-- Settles O34: the five commands name different wires, so their order does not matter. -/
theorem blankReleasesEveryWire : Obligations.BlankReleasesEveryWire :=
  ⟨rfl, performCmds_of_perm_blank, lit_allZ⟩

/-- The wires of the drive commands are those of the entry (R88). -/
theorem driveCmds_wire_lt (e : Entry) (hhi : e.hi.toNat < 5) (hlo : e.lo.toNat < 5) (c : WireCmd)
    (h : c ∈ driveCmds (some e)) : c.wire.toNat < 5 :=
  tickTrace_wire_lt (some e) (by rintro _ ⟨⟩; exact ⟨hhi, hlo⟩) c (List.mem_append_right _ h)

/-- Settles O36: an entry's two wires differ, so the two commands may be exchanged, and one alone lacks the other's wire. -/
theorem driveMakesThePattern : Obligations.DriveMakesThePattern := by
  refine ⟨fun T k e he => ?_, fun _ => rfl⟩
  obtain ⟨hhi, hlo, hne⟩ := entry_wires T k e he
  refine ⟨rfl, hne, fun l hl => ?_, fun c hc => ?_⟩
  · rw [performCmds_of_perm_drive e l hhi hlo hne hl, ← selectedPattern_entry, he]
    rfl
  · have hw := driveCmds_wire_lt e hhi hlo c hc
    exact ⟨_, performCmds_cons c [] allZ hw, lit_set_allZ T c.wire.toNat c.state hw⟩

/-- No drive command releases a wire (R88). -/
theorem driveCmds_state_ne (sel : Option Entry) (c : WireCmd) (h : c ∈ driveCmds sel) : c.state ≠ .Z := by
  cases sel with
  | none => cases h
  | some e =>
    have hc : c = ⟨e.hi, .H⟩ ∨ c = ⟨e.lo, .L⟩ := by simpa [driveCmds] using h
    rcases hc with rfl | rfl <;> simp

/-- Settles O39: the trace is BLANK's commands followed by DRIVE's. -/
theorem blankBeforeDrive : Obligations.BlankBeforeDrive :=
  fun sel => ⟨blankCmds, driveCmds sel, rfl, rfl, by decide, driveCmds_state_ne sel⟩

end Sys2Proof.Machine
end

section
/-!
PROOFS. SELECT, ADVANCE and the whole TICK at the event level (42_multiplex_engine.md R85, R87 to R90, R94, R96, R97).
-/

namespace Sys2Proof.Machine

/-- Below the count SELECT looks up the slot under the cursor (R87). -/
theorem select_below_count (T : Topo) (s : State) (hcur : s.cur.toNat < 5) (hac : s.cur.toNat < s.ac.toNat) :
    select T s = .ok (lookup T s.fb[s.cur.toNat]) := by
  simp [select, hac, hcur]

/-- At or above the count SELECT selects nothing, whatever the cursor (R87, R95). -/
theorem select_above_count (T : Topo) (s : State) (hac : ¬s.cur.toNat < s.ac.toNat) : select T s = .ok none := by
  simp [select, hac]

/-- Settles O35: SELECT's two answers, by the comparison of the cursor with the raw count. -/
theorem selectTheSlotUnderTheCursor : Obligations.SelectTheSlotUnderTheCursor :=
  fun T s hcur => ⟨select_below_count T s hcur, select_above_count T s⟩

/-- A count of 0 divides as 1 (R89). -/
theorem effectiveDivisor_zero (ac : Byte) (h : ac.toNat = 0) : effectiveDivisor ac = 1 := by
  simp [effectiveDivisor, h]

/-- A count in its range divides as itself (R89). -/
theorem effectiveDivisor_inRange (ac : Byte) (h : 1 ≤ ac.toNat) (h' : ac.toNat ≤ 5) :
    effectiveDivisor ac = ac.toNat := by
  simp [effectiveDivisor, show ac.toNat ≠ 0 by omega, show ¬5 < ac.toNat by omega]

/-- A count above 5 divides as 5 (R89). -/
theorem effectiveDivisor_large (ac : Byte) (h : 5 < ac.toNat) : effectiveDivisor ac = 5 := by
  simp [effectiveDivisor, show ac.toNat ≠ 0 by omega, h]

/-- Settles O37: the three ranges of the count. -/
theorem effectiveDivisor_cases : Obligations.EffectiveDivisor :=
  fun ac => ⟨effectiveDivisor_zero ac, effectiveDivisor_inRange ac, effectiveDivisor_large ac⟩

/-- The next cursor depends on the count through the divisor alone (R90). -/
theorem nextCursor_congr (c : SlotIx) (ac ac' : Byte) (h : effectiveDivisor ac = effectiveDivisor ac') :
    nextCursor c ac = nextCursor c ac' := by
  rw [nextCursor, nextCursor, h]

/-- The cursor wraps to 0 where the divisor divides the sum (R90). -/
theorem nextCursor_eq_zero (c : SlotIx) (ac : Byte) (h : effectiveDivisor ac ∣ c.toNat + 1) : nextCursor c ac = 0 :=
  BitVec.eq_of_toNat_eq ((nextCursor_toNat c ac).trans (Nat.mod_eq_zero_of_dvd h))

/-- The pattern of a number that is no LED identifier (R23). -/
theorem pattern_of_invalid (T : Topo) (k : Nat) (h : ¬(1 ≤ k ∧ k ≤ 20)) : T.pattern k = allZ := by
  rw [← selectedPattern_entry, entry_of_invalid T k h]
  rfl

/-- A completed TICK leaves the selected pattern and the next cursor, and nothing else changed (R85). -/
theorem exec_tick_inv (s t : State) (h : exec .tick s = .next t) :
    ∃ sel, select topo s = .ok sel ∧ t = { s with wires := selectedPattern sel, cur := nextCursor s.cur s.ac } := by
  have htick : tick topo s = .next t := h
  cases hsel : select topo s with
  | error r => simp [tick, hsel] at htick
  | ok sel =>
    rw [tick_of_select topo s sel hsel] at htick
    exact ⟨sel, rfl, (Host.Outcome.next.inj htick).symm⟩

/-- Below the count TICK shows the byte under the cursor (R85). -/
theorem exec_tick_below_count (s : State) (hcur : s.cur.toNat < 5) (hac : s.cur.toNat < s.ac.toNat) :
    exec .tick s =
      .next { s with wires := topo.pattern s.fb[s.cur.toNat].toNat, cur := nextCursor s.cur s.ac } := by
  rw [← selectedPattern_entry, ← lookup_eq_entry]
  exact tick_of_select topo s _ (select_below_count topo s hcur hac)

/-- At or above the count TICK releases every wire, whatever the cursor (R85, R95). -/
theorem exec_tick_above_count (s : State) (hac : ¬s.cur.toNat < s.ac.toNat) :
    exec .tick s = .next { s with wires := allZ, cur := nextCursor s.cur s.ac } :=
  tick_of_select topo s none (select_above_count topo s hac)

/-- With the cursor in its range TICK completes (R85). -/
theorem exec_tick_completes (s : State) (hcur : s.cur.toNat < 5) : ∃ t, exec .tick s = .next t := by
  by_cases hac : s.cur.toNat < s.ac.toNat
  · exact ⟨_, exec_tick_below_count s hcur hac⟩
  · exact ⟨_, exec_tick_above_count s hac⟩

/-- Settles O32: below the count the byte under the cursor is shown, which is dark unless it is an identifier. -/
theorem tickNetEffect : Obligations.TickNetEffect := by
  refine ⟨by decide, fun s hcur => ?_⟩
  by_cases hac : s.cur.toNat < s.ac.toNat
  · refine ⟨_, exec_tick_below_count s hcur hac, rfl, fun k _ hk _ _ => congrArg topo.pattern hk,
      fun hno => ?_, nextCursor_toNat s.cur s.ac⟩
    exact pattern_of_invalid topo _ fun hvalid => hno ⟨hac, hvalid⟩
  · exact ⟨_, exec_tick_above_count s hac, rfl, fun _ hlt => absurd hlt hac, fun _ => rfl, nextCursor_toNat s.cur s.ac⟩

/-- Settles O38: the new cursor is a remainder by the divisor. -/
theorem tickAdvancesTheCursor : Obligations.TickAdvancesTheCursor := by
  refine ⟨fun s t h => ?_, exec_tick_completes⟩
  obtain ⟨sel, -, rfl⟩ := exec_tick_inv s t h
  obtain ⟨hpos, -⟩ := effectiveDivisor_range s.ac
  refine ⟨nextCursor_toNat s.cur s.ac, ?_, fun hone => ?_, fun hlast => ?_⟩
  · rw [nextCursor_toNat]
    exact Nat.mod_lt _ hpos
  · exact nextCursor_eq_zero s.cur s.ac (by rw [hone]; exact Nat.one_dvd _)
  · exact nextCursor_eq_zero s.cur s.ac (by rw [hlast])

/-- A sequence goes on from where its first operation completes (R39). -/
theorem execList_cons_of_next (i : Instr) (l : List Instr) (s t : State) (h : exec i s = .next t) :
    execList (i :: l) s = execList l t := by
  simp [execList, h]

/-- With the count 0 TICK is dark and takes every cursor to 0 (R94). -/
theorem exec_tick_zeroCount (s : State) (hac : s.ac = 0) : exec .tick s = .next { s with wires := allZ, cur := 0 } := by
  have hzero : s.ac.toNat = 0 := congrArg BitVec.toNat hac
  have hdiv : effectiveDivisor s.ac = 1 := effectiveDivisor_zero s.ac hzero
  have hcur : nextCursor s.cur s.ac = 0 := nextCursor_eq_zero s.cur s.ac (by rw [hdiv]; exact Nat.one_dvd _)
  rw [exec_tick_above_count s (by omega), hcur]

/-- With the count 1 and the cursor 0 TICK shows slot 0 and leaves the cursor 0 (R94). -/
theorem exec_tick_oneCount (s : State) (hac : s.ac = 1) (hcur : s.cur = 0) :
    exec .tick s = .next { s with wires := topo.pattern s.fb[0].toNat, cur := 0 } := by
  have hslot : s.cur.toNat = 0 := congrArg BitVec.toNat hcur
  have hone : s.ac.toNat = 1 := congrArg BitVec.toNat hac
  have hnext : nextCursor s.cur s.ac = 0 := by rw [hcur, hac]; exact nextCursor_reset
  have htick := exec_tick_below_count s (by omega) (by omega)
  simpa only [hslot, hnext] using htick

/-- With the count 1 and the cursor 0, every positive number of ticks does what one does (R94). -/
theorem execList_ticks_oneCount (n : Nat) (s : State) (hac : s.ac = 1) (hcur : s.cur = 0) :
    execList (ticks (n + 1)) s = .next { s with wires := topo.pattern s.fb[0].toNat, cur := 0 } := by
  induction n generalizing s with
  | zero => exact execList_cons_of_next .tick [] s _ (exec_tick_oneCount s hac hcur)
  | succ n ih =>
    have hfirst := execList_cons_of_next .tick (ticks (n + 1)) s _ (exec_tick_oneCount s hac hcur)
    exact hfirst.trans (ih _ hac rfl)

/-- Settles O41: no cursor is below the count 0, and with the count 1 every tick shows slot 0. -/
theorem zeroCountShowsNothing : Obligations.ZeroCountShowsNothing := by
  refine ⟨exec_tick_zeroCount, fun s n hac hcur hslot => ?_⟩
  rw [execList_ticks_oneCount n s hac hcur, hslot]
  rfl

/-- Settles O43: a byte of 21 or more has the released pattern. -/
theorem outOfRangeIdentifierIgnored : Obligations.OutOfRangeIdentifierIgnored := by
  intro s hcur hac hslot
  have hdark : topo.pattern s.fb[s.cur.toNat].toNat = allZ := pattern_of_invalid topo _ (by omega)
  have htick := exec_tick_below_count s hcur hac
  rw [hdark] at htick
  exact ⟨_, htick, rfl, nextCursor_toNat s.cur s.ac⟩

/-- Settles O44: a cursor in its range is below both counts, and both divide as 5. -/
theorem largeCountActsAsFive : Obligations.LargeCountActsAsFive := by
  intro s hcur hac
  have hdiv : effectiveDivisor s.ac = 5 := effectiveDivisor_large s.ac hac
  have hnext : nextCursor s.cur 5 = nextCursor s.cur s.ac := nextCursor_congr s.cur 5 s.ac (by rw [hdiv]; rfl)
  refine ⟨_, exec_tick_below_count s hcur (by omega), ?_, ?_⟩
  · rw [exec_tick_below_count { s with ac := 5 } hcur hcur, hnext]
  · exact (nextCursor_toNat s.cur s.ac).trans (by rw [hdiv])

end Sys2Proof.Machine
end

section
/-!
PROOFS. The host command port's operations other than TICK (43_host_port.md R100 to R103, R105): the word of each, and the
state it leaves.
-/

namespace Sys2Proof.Machine

/-- Any number of IDLE operations leaves every state as it is (R100). -/
theorem execList_replicate_idle (n : Nat) (s : State) : execList (List.replicate n .idle) s = .next s := by
  induction n with
  | zero => rfl
  | succ n ih => exact (execList_cons_of_next .idle (List.replicate n .idle) s s rfl).trans ih

/-- Settles O14: the word, the decoder on the class of IDLE, and the induction on the number of steps. -/
theorem idleHoldsEverything : Obligations.IdleHoldsEverything :=
  ⟨by decide, decodeHost_idle, fun n s => ⟨rfl, execList_replicate_idle n s⟩⟩

/-- The word of a slot write has the slot's index in its address field (R52, R101). -/
theorem encode_slotWrite (i : Fin 5) (v : Byte) :
    encode (slotWrite i v) = .host (hostWord 2 (BitVec.ofNat 3 i.val) v) := by
  fin_cases i <;> rfl

/-- A slot write sets its slot of the frame buffer and nothing else (R101). -/
theorem exec_slotWrite (i : Fin 5) (v : Byte) (s : State) :
    exec (slotWrite i v) s = .next { s with fb := s.fb.set i.val v } := by
  fin_cases i <;> rfl

/-- A slot's index keeps its value when its address field is widened to the word. -/
theorem zeroExtend_slotAddress (i : Fin 5) : (BitVec.ofNat 3 i.val).zeroExtend 13 = BitVec.ofNat 13 i.val := by
  revert i; decide

/-- Below the count SELECT sees the byte just stored in the slot under the cursor (R87, R101). -/
theorem select_set_slot_under_cursor (T : Topo) (s : State) (i : Fin 5) (v : Byte) (hcur : s.cur.toNat = i.val)
    (hac : i.val < s.ac.toNat) : select T { s with fb := s.fb.set i.val v } = .ok (lookup T v) := by
  have hrange : s.cur.toNat < 5 := by omega
  have hbelow : s.cur.toNat < s.ac.toNat := by omega
  have hsel := select_below_count T { s with fb := s.fb.set i.val v } hrange hbelow
  simpa only [hcur, Vector.getElem_set_self] using hsel

/-- A byte stored at or above the count does not change what SELECT answers: the slot under a cursor below the count is
another one (R87, R101). -/
theorem select_set_slot_above_count (T : Topo) (s : State) (i : Fin 5) (v : Byte) (hac : s.ac.toNat ≤ i.val) :
    select T { s with fb := s.fb.set i.val v } = select T s := by
  by_cases hbelow : s.cur.toNat < s.ac.toNat
  · have hrange : s.cur.toNat < 5 := by omega
    have hother : i.val ≠ s.cur.toNat := by omega
    have hsel := select_below_count T { s with fb := s.fb.set i.val v } hrange hbelow
    rw [hsel, select_below_count T s hrange hbelow, Vector.getElem_set_ne i.isLt hrange hother]
  · exact (select_above_count T { s with fb := s.fb.set i.val v } hbelow).trans (select_above_count T s hbelow).symm

/-- Settles O15: the write sets one element of the frame buffer, and SELECT reads the buffer under the cursor alone. -/
theorem slotWriteSetsItsSlot : Obligations.SlotWriteSetsItsSlot := by
  intro i v s
  refine ⟨?_, _, exec_slotWrite i v s, rfl, Vector.getElem?_set_self i.isLt, fun j hj => ?_,
    select_set_slot_under_cursor topo s i v, select_set_slot_above_count topo s i v⟩
  · rw [encode_slotWrite, hostWord_write_eq_add, zeroExtend_slotAddress]
  · exact Vector.getElem?_set_ne i.isLt hj.symm

/-- Settles O16: the word is the one of address 5, and the write is the one of the count's register. -/
theorem countWriteSetsTheCount : Obligations.CountWriteSetsTheCount :=
  fun v s => ⟨congrArg CommandWord.host (hostWord_eq_add_data 2 5 v), congrArg Host.Outcome.next (writeReg_count s v)⟩

/-- Settles O17: the words are those of the addresses 6 and 7, where a write leaves every state as it is. -/
theorem reservedWriteChangesNothing : Obligations.ReservedWriteChangesNothing := by
  intro d s
  refine ⟨?_, ?_, exec_wrRsvd 0 d s, exec_wrRsvd 1 d s, exec_wrRsvd 0 d s⟩
  · exact congrArg CommandWord.host (hostWord_eq_add_data 2 6 d)
  · exact congrArg CommandWord.host (hostWord_eq_add_data 2 7 d)

/-- Settles O18: the reset state, with the outside's words kept, is the same from every state and has no command pending. -/
theorem resetFromAnyState : Obligations.ResetFromAnyState := by
  refine ⟨by decide, decodeHost_reset, fun s => ⟨resetState s, rfl, ?_, resetState_ac s, resetState_cur s, ?_, ?_⟩⟩
  · rw [resetState_fb]
    decide
  · rw [resetState_wires]
    decide
  · simp

end Sys2Proof.Machine
end

section
/-!
PROOFS. The five classes of operations and what each does, and the Wire Driver's decoder read backwards
(30_encoding.md R51 to R54).
-/

namespace Sys2Proof.Machine

/-- A format-W word is made of its two fields (R53). -/
theorem wireWord_fields (w : WireWord) : wireWord (WireWord.wire w) (WireWord.code w) = w := by
  revert w; decide

/-- The canonical word of a Wire Driver command (R53, R93). -/
@[simp] theorem encode_instrOfCmd (c : WireCmd) : encode (instrOfCmd c) = .wire (wordOfCmd c) := by
  obtain ⟨w, x⟩ := c
  cases x <;> rfl

/-- A Wire Driver command is an operation of the spec exactly in the driver's domain (R53, R69). -/
theorem wellFormed_instrOfCmd (c : WireCmd) : (instrOfCmd c).wellFormed = true ↔ c.wire.toNat < 5 := by
  obtain ⟨w, x⟩ := c
  cases x <;> simp [instrOfCmd, Instr.wellFormed, WireIx.inDomain]

/-- A wire word that decodes is the word of a command in the driver's domain (R53, R60). -/
theorem decodeWire_ok_inv (w : WireWord) (i : Instr) (h : decodeWire w = .ok i) :
    ∃ c : WireCmd, c.wire.toNat < 5 ∧ w = wordOfCmd c ∧ i = instrOfCmd c := by
  have herr := decodeWire_error_iff w
  rw [h] at herr
  have hdom : (WireWord.wire w).toNat < 5 ∧ WireWord.code w ≠ 1 := by simp_all
  obtain ⟨hwire, hcode⟩ := hdom
  have hx : ∃ x : WireState, WireWord.code w = x.code := by
    rcases twoBits_cases (WireWord.code w) with hc | hc | hc | hc
    · exact ⟨.Z, hc⟩
    · exact absurd hc hcode
    · exact ⟨.L, hc⟩
    · exact ⟨.H, hc⟩
  obtain ⟨x, hx⟩ := hx
  have hw : w = wordOfCmd ⟨WireWord.wire w, x⟩ := by rw [wordOfCmd, ← hx, wireWord_fields]
  refine ⟨⟨WireWord.wire w, x⟩, hwire, hw, ?_⟩
  rw [hw, decodeWire_wordOfCmd _ hwire] at h
  exact (Except.ok.inj h).symm

/-- Every operation is IDLE, TICK, RESET, a host write or a command of the Wire Driver (R49). -/
theorem instr_cases (i : Instr) :
    i = .idle ∨ i = .tick ∨ i = .reset ∨ (∃ a v, i = decodeWrite a v) ∨ ∃ c, i = instrOfCmd c := by
  cases i with
  | idle => exact .inl rfl
  | tick => exact .inr (.inl rfl)
  | reset => exact .inr (.inr (.inl rfl))
  | wrFb0 v => exact .inr (.inr (.inr (.inl ⟨0, v, rfl⟩)))
  | wrFb1 v => exact .inr (.inr (.inr (.inl ⟨1, v, rfl⟩)))
  | wrFb2 v => exact .inr (.inr (.inr (.inl ⟨2, v, rfl⟩)))
  | wrFb3 v => exact .inr (.inr (.inr (.inl ⟨3, v, rfl⟩)))
  | wrFb4 v => exact .inr (.inr (.inr (.inl ⟨4, v, rfl⟩)))
  | wrAc v => exact .inr (.inr (.inr (.inl ⟨5, v, rfl⟩)))
  | wrRsvd b v =>
    rcases BitVec.eq_zero_or_eq_one b with rfl | rfl
    · exact .inr (.inr (.inr (.inl ⟨6, v, rfl⟩)))
    · exact .inr (.inr (.inr (.inl ⟨7, v, rfl⟩)))
  | wsetZ w => exact .inr (.inr (.inr (.inr ⟨⟨w, .Z⟩, rfl⟩)))
  | wsetL w => exact .inr (.inr (.inr (.inr ⟨⟨w, .L⟩, rfl⟩)))
  | wsetH w => exact .inr (.inr (.inr (.inr ⟨⟨w, .H⟩, rfl⟩)))

/-- The canonical word of a host write carries its address and its byte (R52). -/
@[simp] theorem encode_decodeWrite (a : RegAddr) (v : Byte) : encode (decodeWrite a v) = .host (hostWord 2 a v) := by
  rcases regAddr_cases a with rfl | rfl | rfl | rfl | rfl | rfl | rfl | rfl <;> rfl

/-- The decoder gives back every well-formed operation from its canonical word. -/
theorem decode_encode (i : Instr) (h : i.wellFormed = true) : decode (encode i) = .ok i := by
  rcases instr_cases i with rfl | rfl | rfl | ⟨a, v, rfl⟩ | ⟨c, rfl⟩
  · exact congrArg Except.ok (decodeHost_idle 0 0)
  · exact congrArg Except.ok (decodeHost_tick 0 0)
  · exact congrArg Except.ok (decodeHost_reset 0 0)
  · rw [encode_decodeWrite]
    exact congrArg Except.ok (decodeHost_write a v)
  · rw [encode_instrOfCmd]
    exact decodeWire_wordOfCmd c ((wellFormed_instrOfCmd c).mp h)

/-- Settles O3: the round trip by the five classes of operations, and a decoded wire word by the command it is. -/
theorem decodeOfEncode : Obligations.DecodeOfEncode := by
  refine ⟨decode_encode, fun w i h => ?_⟩
  obtain ⟨c, hc, rfl, rfl⟩ := decodeWire_ok_inv w i h
  exact ⟨encode_instrOfCmd c, (wellFormed_instrOfCmd c).mpr hc⟩

/-- A host word is never a command of the Wire Driver (R49). -/
theorem decodeHost_ne_instrOfCmd (w : HostWord) (c : WireCmd) : decodeHost w ≠ instrOfCmd c := by
  intro h
  obtain ⟨-, v, hv⟩ := decodeHost_isHost w
  rw [h, encode_instrOfCmd] at hv
  cases hv

/-- Settles O2: the decoders evaluate on the eighteen words. -/
theorem specWordsDecode : Obligations.SpecWordsDecode := by
  unfold Obligations.SpecWordsDecode
  decide

end Sys2Proof.Machine
end

section
/-!
PROOFS. What an operation can do to the state (10_state.md section 4, 20_memory.md sections 1 and 2).
-/

namespace Sys2Proof.Machine

/-- A host write performs the write of its byte at its address (R101 to R103). -/
@[simp] theorem exec_decodeWrite (a : RegAddr) (v : Byte) (s : State) :
    exec (decodeWrite a v) s = .next (writeReg a v s) := by
  rcases regAddr_cases a with rfl | rfl | rfl | rfl | rfl | rfl | rfl | rfl <;> rfl

/-- RESET writes the reset state, and keeps what the outside has still to present (R105). -/
@[simp] theorem exec_reset (s : State) : exec .reset s = .next (resetState s) := rfl

/-- IDLE leaves the state as it is (R100). -/
@[simp] theorem exec_idle (s : State) : exec .idle s = .next s := rfl

/-- A Wire Driver command that completes has set its one wire (R65 to R69). -/
theorem exec_instrOfCmd_inv (c : WireCmd) (s t : State) (h : exec (instrOfCmd c) s = .next t) :
    ∃ hc : c.wire.toNat < 5, t = { s with wires := s.wires.set c.wire.toNat c.state } := by
  rw [exec_instrOfCmd] at h
  rcases driveWire_cases c.wire c.state s with ⟨hc, hdrive⟩ | ⟨-, hdrive⟩
  · exact ⟨hc, Host.Outcome.next.inj (h.symm.trans hdrive)⟩
  · cases h.symm.trans hdrive

/-- Everything an operation that completes can have done, by its class. -/
theorem exec_inv (i : Instr) (s t : State) (h : exec i s = .next t) :
    (i = .idle ∧ t = s) ∨
      (i = .tick ∧ ∃ sel, select topo s = .ok sel ∧
        t = { s with wires := selectedPattern sel, cur := nextCursor s.cur s.ac }) ∨
      (i = .reset ∧ t = resetState s) ∨ (∃ a v, i = decodeWrite a v ∧ t = writeReg a v s) ∨
      ∃ c, i = instrOfCmd c ∧ ∃ hc : c.wire.toNat < 5, t = { s with wires := s.wires.set c.wire.toNat c.state } := by
  rcases instr_cases i with rfl | rfl | rfl | ⟨a, v, rfl⟩ | ⟨c, rfl⟩
  · exact .inl ⟨rfl, (Host.Outcome.next.inj h).symm⟩
  · exact .inr (.inl ⟨rfl, exec_tick_inv s t h⟩)
  · exact .inr (.inr (.inl ⟨rfl, (Host.Outcome.next.inj h).symm⟩))
  · rw [exec_decodeWrite] at h
    exact .inr (.inr (.inr (.inl ⟨a, v, rfl, (Host.Outcome.next.inj h).symm⟩)))
  · exact .inr (.inr (.inr (.inr ⟨c, rfl, exec_instrOfCmd_inv c s t h⟩)))

/-- A command of the Wire Driver writes a wire (R72). -/
theorem isWireWriter_instrOfCmd (c : WireCmd) : isWireWriter (instrOfCmd c) = true := by
  obtain ⟨w, x⟩ := c
  cases x <;> rfl

/-- Only a write to the addresses 0 to 4 changes the frame buffer (R31, R35). -/
theorem writeReg_fb (a : RegAddr) (v : Byte) (s : State) (h : isSlotWrite (decodeWrite a v) = false) :
    (writeReg a v s).fb = s.fb := by
  rcases regAddr_cases a with rfl | rfl | rfl | rfl | rfl | rfl | rfl | rfl <;> simp_all [decodeWrite, isSlotWrite]

/-- Only a write to the address 5 changes the count (R31, R35). -/
theorem writeReg_ac (a : RegAddr) (v : Byte) (s : State) (h : ∀ v', decodeWrite a v ≠ .wrAc v') :
    (writeReg a v s).ac = s.ac := by
  rcases regAddr_cases a with rfl | rfl | rfl | rfl | rfl | rfl | rfl | rfl
  case inr.inr.inr.inr.inr.inl => exact absurd rfl (h v)
  all_goals rfl

/-- Settles O13: the fields that each class of operations leaves as they are. -/
theorem onlyOwnersWrite : Obligations.OnlyOwnersWrite := by
  intro i s t h
  rcases exec_inv i s t h with ⟨rfl, rfl⟩ | ⟨rfl, sel, -, rfl⟩ | ⟨rfl, rfl⟩ | ⟨a, v, rfl, rfl⟩ | ⟨c, rfl, -, rfl⟩
  · simp
  · simp [isWireWriter]
  · simp [isWireWriter]
  · exact ⟨fun _ => writeReg_wires s a v, fun _ _ => writeReg_cur s a v, fun hslot _ => writeReg_fb a v s hslot,
      fun hac _ => writeReg_ac a v s hac, fun _ => writeReg_pending s a v, writeReg_port s a v⟩
  · simp [isWireWriter_instrOfCmd]

/-- The addresses 6 and 7 hold nothing (R32). -/
theorem readReg_reserved (a : RegAddr) (s : State) (h : ¬a.toNat < 6) : readReg a s = none := by
  have ha : a = 6#3 ∨ a = 7#3 := by revert a; decide
  rcases ha with rfl | rfl <;> rfl

/-- Reading back the address written gives the byte, or nothing where there is no register (R35, R37). -/
theorem readReg_writeReg_self (a : RegAddr) (v : Byte) (s : State) :
    readReg a (writeReg a v s) = if a.toNat < 6 then some v else none := by
  by_cases ha : a.toNat < 6
  · simp [readReg_writeReg, ha]
  · rw [readReg_reserved a _ ha, if_neg ha]

/-- Settles O21: the write is the one of a register, and reading follows it address by address. -/
theorem hostWriteFrame : Obligations.HostWriteFrame := by
  intro a v s
  refine ⟨_, exec_decodeWrite a v s, readReg_writeReg_self a v s, fun b hb => ?_, writeReg_cur s a v,
    writeReg_wires s a v, writeReg_pending s a v, writeReg_port s a v⟩
  · simp [readReg_writeReg, hb]

/-- Writing a byte twice is writing it once (R35). -/
theorem writeReg_twice (a : RegAddr) (v : Byte) (s : State) : writeReg a v (writeReg a v s) = writeReg a v s := by
  rcases regAddr_cases a with rfl | rfl | rfl | rfl | rfl | rfl | rfl | rfl <;> simp

/-- Settles O22: a register that holds the byte, as it does after the first write, keeps it. -/
theorem writesAreIdempotent : Obligations.WritesAreIdempotent := by
  refine fun a v s => ⟨fun h => ?_, ?_⟩
  · rw [exec_decodeWrite, writeReg_same a v s h]
  · simp [execList, writeReg_twice]

/-- Settles O19: RESET's state is by definition the reset state with the outside's words. -/
theorem resetLeavesThePort : Obligations.ResetLeavesThePort := exec_reset

end Sys2Proof.Machine
end

section
/-!
PROOFS. What a fetch, a step and a micro-step can do (00_scope.md R7, 43_host_port.md R106, 60_exceptions.md R121), and
which of them complete (R111, R113).
-/

namespace Sys2Proof.Machine

/-- A fetch that answers took a Wire Driver command, or a host word, or found nothing to do. -/
theorem fetch_inv (s u : State) (i : Instr) (h : fetch s = .ok (i, u)) :
    (∃ c rest, c.wire.toNat < 5 ∧ s.pending = wordOfCmd c :: rest ∧ i = instrOfCmd c ∧ u = { s with pending := rest }) ∨
      (s.pending = [] ∧ ∃ w rest, s.port = w :: rest ∧ i = decodeHost w ∧ u = { s with port := rest }) ∨
      (s.pending = [] ∧ s.port = [] ∧ i = .idle ∧ u = s) := by
  rcases fetch_cases s with ⟨w, rest, hp, ⟨j, hd, hf⟩ | ⟨e, -, hf⟩⟩ | ⟨hp, w, rest, ho, hf⟩ | ⟨hp, ho, hf⟩
  · obtain ⟨c, hc, rfl, rfl⟩ := decodeWire_ok_inv w j hd
    obtain ⟨rfl, rfl⟩ := Prod.mk.inj (Except.ok.inj (h.symm.trans hf))
    exact .inl ⟨c, rest, hc, hp, rfl, rfl⟩
  · cases h.symm.trans hf
  · obtain ⟨rfl, rfl⟩ := Prod.mk.inj (Except.ok.inj (h.symm.trans hf))
    exact .inr (.inl ⟨hp, w, rest, ho, rfl, rfl⟩)
  · obtain ⟨rfl, rfl⟩ := Prod.mk.inj (Except.ok.inj (h.symm.trans hf))
    exact .inr (.inr ⟨hp, ho, rfl, rfl⟩)

/-- A fetch takes a word and touches no register (R106). -/
theorem fetch_frame (s u : State) (i : Instr) (h : fetch s = .ok (i, u)) :
    u.fb = s.fb ∧ u.ac = s.ac ∧ u.cur = s.cur ∧ u.wires = s.wires := by
  rcases fetch_inv s u i h with ⟨c, rest, -, -, -, rfl⟩ | ⟨-, w, rest, -, -, rfl⟩ | ⟨-, -, -, rfl⟩ <;>
    exact ⟨rfl, rfl, rfl, rfl⟩

/-- A step performs the operation fetched. -/
theorem step_of_fetch (s u : State) (i : Instr) (h : fetch s = .ok (i, u)) : step s = exec i u := by
  simp [step, h]

/-- A micro-step performs the operation fetched, unless it is TICK. -/
theorem microStep_of_fetch (s u : State) (i : Instr) (h : fetch s = .ok (i, u)) (hi : i ≠ .tick) :
    microStep s = exec i u := by
  unfold microStep
  rw [h]
  split <;> simp_all

/-- A micro-step that takes a TICK issues its commands (R93). -/
theorem microStep_of_fetch_tick (s u : State) (h : fetch s = .ok (.tick, u)) : microStep s = startTick topo u := by
  simp [microStep, h]

/-- A step that completes has performed the operation fetched. -/
theorem step_inv (s t : State) (h : step s = .next t) : ∃ i u, fetch s = .ok (i, u) ∧ exec i u = .next t := by
  cases hf : fetch s with
  | error r => simp [step, hf] at h
  | ok iu => exact ⟨iu.1, iu.2, rfl, by rw [← step_of_fetch s iu.2 iu.1 hf, h]⟩

/-- What TICK issues at the micro-step level, where SELECT answers (R93). -/
theorem startTick_of_select (T : Topo) (s : State) (sel : Option Entry) (h : select T s = .ok sel) :
    startTick T s =
      .next { s with pending := s.pending ++ (tickTrace sel).map wordOfCmd, cur := nextCursor s.cur s.ac } := by
  simp [startTick, h]

/-- A TICK that has issued its commands is one for which SELECT answers. -/
theorem startTick_inv (T : Topo) (s t : State) (h : startTick T s = .next t) :
    ∃ sel, select T s = .ok sel ∧
      t = { s with pending := s.pending ++ (tickTrace sel).map wordOfCmd, cur := nextCursor s.cur s.ac } := by
  cases hsel : select T s with
  | error r => simp [startTick, hsel] at h
  | ok sel =>
    rw [startTick_of_select T s sel hsel] at h
    exact ⟨sel, rfl, (Host.Outcome.next.inj h).symm⟩

/-- A micro-step that completes has issued a TICK's commands or performed the other operation fetched. -/
theorem microStep_inv (s t : State) (h : microStep s = .next t) :
    ∃ i u, fetch s = .ok (i, u) ∧ (i = .tick ∧ startTick topo u = .next t ∨ i ≠ .tick ∧ exec i u = .next t) := by
  cases hf : fetch s with
  | error r => simp [microStep, hf] at h
  | ok iu =>
    obtain ⟨i, u⟩ := iu
    refine ⟨i, u, rfl, ?_⟩
    by_cases hi : i = .tick
    · subst hi
      exact .inl ⟨rfl, by rw [← microStep_of_fetch_tick s u hf, h]⟩
    · exact .inr ⟨hi, by rw [← microStep_of_fetch s u i hf hi, h]⟩

/-- With no Wire Driver command pending the next presented word is fetched (R106). -/
theorem fetch_port (s : State) (w : HostWord) (rest : List HostWord) (hp : s.pending = []) (ho : s.port = w :: rest) :
    fetch s = .ok (decodeHost w, { s with port := rest }) := by
  simp [fetch, hp, ho]

/-- With nothing pending and nothing presented a fetch answers IDLE (R100). -/
theorem fetch_nothing (s : State) (hp : s.pending = []) (ho : s.port = []) : fetch s = .ok (.idle, s) := by
  simp [fetch, hp, ho]

/-- A pending Wire Driver command is fetched first (R121). -/
theorem fetch_pending (s : State) (c : WireCmd) (rest : List WireWord) (hc : c.wire.toNat < 5)
    (hp : s.pending = wordOfCmd c :: rest) : fetch s = .ok (instrOfCmd c, { s with pending := rest }) := by
  simp [fetch, hp, decodeWire_wordOfCmd c hc]

/-- Settles O1: a step is exec of what is fetched, and each decoder answers well-formed operations only. -/
theorem stepRunsDecodedInstruction : Obligations.StepRunsDecodedInstruction := by
  refine fun s => ⟨fun w rest hp ho => ?_, fun w rest i hp hd => ?_, fun hp ho => ?_⟩
  · obtain ⟨hwf, -⟩ := decodeHost_isHost w
    exact ⟨hwf, step_of_fetch s _ _ (fetch_port s w rest hp ho)⟩
  · obtain ⟨c, hc, rfl, rfl⟩ := decodeWire_ok_inv w i hd
    exact ⟨(wellFormed_instrOfCmd c).mpr hc, step_of_fetch s _ _ (fetch_pending s c rest hc hp)⟩
  · exact step_of_fetch s _ _ (fetch_nothing s hp ho)

@[simp] theorem cursorInRange_iff (s : State) : cursorInRange s = true ↔ s.cur.toNat < 5 := by
  simp [cursorInRange]

/-- The next cursor is always in range (R25, R90). -/
theorem nextCursor_lt (c : SlotIx) (ac : Byte) : (nextCursor c ac).toNat < 5 := by
  obtain ⟨hpos, hle⟩ := effectiveDivisor_range ac
  rw [nextCursor_toNat]
  exact (Nat.mod_lt _ hpos).trans_le hle

/-- Every operation that completes keeps the cursor in its range (R25). -/
theorem exec_keeps_cursorRange (i : Instr) (s t : State) (hcur : s.cur.toNat < 5) (h : exec i s = .next t) :
    t.cur.toNat < 5 := by
  rcases exec_inv i s t h with ⟨-, rfl⟩ | ⟨-, sel, -, rfl⟩ | ⟨-, rfl⟩ | ⟨a, v, -, rfl⟩ | ⟨c, -, -, rfl⟩
  · exact hcur
  · exact nextCursor_lt s.cur s.ac
  · simp
  · simpa using hcur
  · exact hcur

/-- Settles O48: a fetch leaves the cursor, the operations keep its range, and a TICK's next cursor is a remainder by a
divisor of at most 5 at both levels. -/
theorem cursorRangeKept : Obligations.CursorRangeKept := by
  intro s t hs
  rw [cursorInRange_iff] at hs ⊢
  refine ⟨fun h => ?_, fun h => ?_⟩
  · obtain ⟨i, u, hf, hexec⟩ := step_inv s t h
    obtain ⟨-, -, hcur, -⟩ := fetch_frame s u i hf
    exact exec_keeps_cursorRange i u t (hcur ▸ hs) hexec
  · obtain ⟨i, u, hf, ⟨-, hstart⟩ | ⟨-, hexec⟩⟩ := microStep_inv s t h
    · obtain ⟨sel, -, rfl⟩ := startTick_inv topo u t hstart
      exact nextCursor_lt u.cur u.ac
    · obtain ⟨-, -, hcur, -⟩ := fetch_frame s u i hf
      exact exec_keeps_cursorRange i u t (hcur ▸ hs) hexec

/-- With the cursor in range every well-formed operation completes (R111). -/
theorem exec_completes (i : Instr) (s : State) (hi : i.wellFormed = true) (hcur : s.cur.toNat < 5) :
    ∃ t, exec i s = .next t := by
  rcases instr_cases i with rfl | rfl | rfl | ⟨a, v, rfl⟩ | ⟨c, rfl⟩
  · exact ⟨_, exec_idle s⟩
  · exact exec_tick_completes s hcur
  · exact ⟨_, exec_reset s⟩
  · exact ⟨_, exec_decodeWrite a v s⟩
  · rw [exec_instrOfCmd]
    exact ⟨_, driveWire_inDomain c.wire c.state s ((wellFormed_instrOfCmd c).mp hi)⟩

/-- With no tick in progress and the cursor in range a step completes (R113). -/
theorem step_completes (s : State) (hp : s.pending = []) (hcur : s.cur.toNat < 5) : ∃ t, step s = .next t := by
  cases ho : s.port with
  | nil => exact ⟨s, step_of_fetch s s .idle (fetch_nothing s hp ho)⟩
  | cons w rest =>
    obtain ⟨hwf, -⟩ := decodeHost_isHost w
    rw [step_of_fetch s _ _ (fetch_port s w rest hp ho)]
    exact exec_completes _ _ hwf hcur

/-- Settles O47: presenting a word leaves the state with no tick in progress and the cursor where it was. -/
theorem everyHostWordCompletes : Obligations.EveryHostWordCompletes :=
  fun s hp hcur => ⟨step_completes s hp hcur, fun w => step_completes (present (.host w) s) rfl hcur⟩

/-- SELECT answers with the cursor in range (R87). -/
theorem select_completes (T : Topo) (s : State) (hcur : s.cur.toNat < 5) : ∃ sel, select T s = .ok sel := by
  rcases select_cases T s with ⟨-, h⟩ | ⟨_, -, h⟩ | ⟨hout, -⟩
  · exact ⟨_, h⟩
  · exact ⟨_, h⟩
  · omega

/-- With no tick in progress and the cursor in range a micro-step completes. -/
theorem microStep_completes (s : State) (hp : s.pending = []) (hcur : s.cur.toNat < 5) :
    ∃ t, microStep s = .next t := by
  cases ho : s.port with
  | nil => exact ⟨s, microStep_of_fetch s s .idle (fetch_nothing s hp ho) (by simp)⟩
  | cons w rest =>
    have hf := fetch_port s w rest hp ho
    by_cases htick : decodeHost w = .tick
    · rw [htick] at hf
      obtain ⟨sel, hsel⟩ := select_completes topo { s with port := rest } hcur
      exact ⟨_, (microStep_of_fetch_tick s _ hf).trans (startTick_of_select topo _ sel hsel)⟩
    · obtain ⟨hwf, -⟩ := decodeHost_isHost w
      rw [microStep_of_fetch s _ _ hf htick]
      exact exec_completes _ _ hwf hcur

/-- Settles O33: SELECT's refusal is TICK's, and in every other state SELECT answers. -/
theorem tickStopsOnlyOutsideTheBuffer : Obligations.TickStopsOnlyOutsideTheBuffer := by
  refine fun s => ⟨fun hout hac => ?_, fun h => ?_⟩
  · have hsel : select topo s = .error (.cursorOutsideFrameBuffer s.cur) := by simp [select, hac, hout]
    simp [exec, execTick, tick, hsel]
  · rcases h with hcur | hac
    · exact exec_tick_completes s hcur
    · exact ⟨_, exec_tick_above_count s (by omega)⟩

end Sys2Proof.Machine
end

section
/-!
PROOFS. What the host wrote does not depend on what the engine holds (00_scope.md section 2, 43_host_port.md section 2).
-/

namespace Sys2Proof.Machine

/-- Two states agree on everything the outside has written or has still to present. -/
def hostAgree (s s' : State) : Prop := s.fb = s'.fb ∧ s.ac = s'.ac ∧ s.port = s'.port

/-- A host write keeps the agreement: it stores its own byte (R35). -/
theorem writeReg_hostAgree (a : RegAddr) (v : Byte) (s s' : State) (h : hostAgree s s') :
    hostAgree (writeReg a v s) (writeReg a v s') := by
  obtain ⟨hfb, hac, hport⟩ := h
  rcases regAddr_cases a with rfl | rfl | rfl | rfl | rfl | rfl | rfl | rfl <;> simp [hostAgree, hfb, hac, hport]

/-- Every operation that completes in both states keeps the agreement. -/
theorem exec_hostAgree (i : Instr) (s s' t t' : State) (h : hostAgree s s') (hs : exec i s = .next t)
    (hs' : exec i s' = .next t') : hostAgree t t' := by
  rcases instr_cases i with rfl | rfl | rfl | ⟨a, v, rfl⟩ | ⟨c, rfl⟩
  · cases hs; cases hs'
    exact h
  · obtain ⟨sel, -, rfl⟩ := exec_tick_inv s t hs
    obtain ⟨sel', -, rfl⟩ := exec_tick_inv s' t' hs'
    exact h
  · cases hs; cases hs'
    obtain ⟨-, -, hport⟩ := h
    exact ⟨rfl, rfl, hport⟩
  · rw [exec_decodeWrite] at hs hs'
    cases hs; cases hs'
    exact writeReg_hostAgree a v s s' h
  · obtain ⟨-, rfl⟩ := exec_instrOfCmd_inv c s t hs
    obtain ⟨-, rfl⟩ := exec_instrOfCmd_inv c s' t' hs'
    exact h

/-- Settles O60: both states fetch the same operation, and it keeps the agreement. -/
theorem nothingFlowsBack : Obligations.NothingFlowsBack := by
  intro s s' t t' hp hp' hfb hac hport hs hs'
  cases ho : s.port with
  | nil =>
    rw [step_of_fetch s _ _ (fetch_nothing s hp ho)] at hs
    rw [step_of_fetch s' _ _ (fetch_nothing s' hp' (hport ▸ ho))] at hs'
    exact exec_hostAgree .idle s s' t t' ⟨hfb, hac, hport⟩ hs hs'
  | cons w rest =>
    rw [step_of_fetch s _ _ (fetch_port s w rest hp ho)] at hs
    rw [step_of_fetch s' _ _ (fetch_port s' w rest hp' (hport ▸ ho))] at hs'
    exact exec_hostAgree (decodeHost w) { s with port := rest } { s' with port := rest } t t' ⟨hfb, hac, rfl⟩ hs hs'

end Sys2Proof.Machine
end

section
/-!
PROOFS. The topology map as a bijection onto the ordered pairs of distinct wires (41_topology_map.md sections 1 and 2), the
pattern of a pair and its pins, and what a pattern lights (sections 2 and 3).
-/

namespace Sys2Proof.Machine

/-- The reference table has every ordered pair of distinct wires (R77). -/
theorem mem_topoRefTable (e : Entry) (hhi : e.hi.toNat < 5) (hlo : e.lo.toNat < 5) (hne : e.hi ≠ e.lo) :
    e ∈ topoRefTable.toList := by
  obtain ⟨hi, lo⟩ := e
  revert hi lo
  decide

/-- An admissible table has no entry twice (R75). -/
theorem table_nodup (T : Topo) : T.table.toList.Nodup := by
  refine List.nodup_iff_injective_get.mpr fun j k h => ?_
  have hjk := T.wf.2 ⟨j, by simpa using j.isLt⟩ ⟨k, by simpa using k.isLt⟩ (by simpa using h)
  exact Fin.ext (Fin.mk.inj hjk)

/-- An admissible table is a rearrangement of the reference table: both have 20 different entries, of 20 pairs (R75, R77). -/
theorem table_perm_topoRefTable (T : Topo) : T.table.toList.Perm topoRefTable.toList := by
  have hsub : T.table.toList ⊆ topoRefTable.toList := by
    intro e he
    obtain ⟨k, hk, rfl⟩ := List.mem_iff_getElem.mp he
    obtain ⟨hhi, hlo, hne⟩ := T.wf.1 ⟨k, by simpa using hk⟩
    simpa using mem_topoRefTable _ hhi hlo hne
  exact ((table_nodup T).subperm hsub).perm_of_length_le (by simp)

/-- Every ordered pair of distinct wires is the entry of an LED. -/
theorem exists_entry (T : Topo) (e : Entry) (hhi : e.hi.toNat < 5) (hlo : e.lo.toNat < 5) (hne : e.hi ≠ e.lo) :
    ∃ k, T.entry k = some e := by
  have hmem : e ∈ T.table.toList := (table_perm_topoRefTable T).mem_iff.mpr (mem_topoRefTable e hhi hlo hne)
  obtain ⟨n, hn, rfl⟩ := List.mem_iff_getElem.mp hmem
  have hn : n < 20 := by simpa using hn
  exact ⟨n + 1, by simp [entry_of_valid T (n + 1) ⟨by omega, by omega⟩]⟩

/-- A number with an entry is an LED identifier (R8, R74). -/
theorem valid_of_entry (T : Topo) (k : Nat) (e : Entry) (h : T.entry k = some e) : 1 ≤ k ∧ k ≤ 20 := by
  obtain ⟨hk, -⟩ := (entry_some_iff T k e).mp h
  exact hk

/-- The list of the identifiers is 1 to 20 (R8). -/
@[simp] theorem mem_ledIds (k : Nat) : k ∈ ledIds ↔ 1 ≤ k ∧ k ≤ 20 := by
  simp only [ledIds, List.mem_cons, List.not_mem_nil, or_false]
  omega

/-- The inverse of the table answers the identifier of an entry (R80). -/
theorem led_of_entry (T : Topo) (k : Nat) (e : Entry) (h : T.entry k = some e) : T.led e = some k := by
  have hsome : (T.led e).isSome := List.find?_isSome.mpr ⟨k, (mem_ledIds k).mpr (valid_of_entry T k e h), by simp [h]⟩
  obtain ⟨j, hj⟩ := Option.isSome_iff_exists.mp hsome
  have hentry : T.entry j = some e := by simpa using List.find?_some hj
  rw [hj, entry_inj T j k e hentry h]

/-- Settles O24: a table of 20 different pairs has all the 20 pairs there are, and no pair has two identifiers. -/
theorem everyPairIsOneLed : Obligations.EveryPairIsOneLed := by
  intro T e hhi hlo hne
  obtain ⟨k, hk⟩ := exists_entry T e hhi hlo hne
  obtain ⟨hpos, hle⟩ := valid_of_entry T k e hk
  exact ⟨k, hpos, hle, hk, led_of_entry T k e hk, fun j hj => entry_inj T j k e hj hk⟩

/-- The state of a wire in the pattern of a pair, by its number (R79). -/
theorem pairdec_getElem? (e : Entry) (w : Nat) (hw : w < 5) :
    (pairdec e)[w]? = some (if w = e.hi.toNat then .H else if w = e.lo.toNat then .L else .Z) := by
  rw [Vector.getElem?_eq_getElem hw]
  exact congrArg some (pairdec_get e ⟨w, hw⟩)

/-- The driven wires of a pair's pattern are the two of the pair. -/
theorem outputEnable_pairdec (e : Entry) (hhi : e.hi.toNat < 5) (hlo : e.lo.toNat < 5) (hne : e.hi ≠ e.lo) :
    outputEnable (pairdec e) = (1 <<< e.hi.toNat) + (1 <<< e.lo.toNat) := by
  obtain ⟨hi, lo⟩ := e
  revert hi lo
  decide

/-- The high wire of a pair's pattern is the first of the pair. -/
theorem outputLevel_pairdec (e : Entry) (hhi : e.hi.toNat < 5) : outputLevel (pairdec e) = 1 <<< e.hi.toNat := by
  obtain ⟨hi, lo⟩ := e
  revert hi lo
  decide

/-- Settles O27: the wires one by one, and the two pin vectors over all pairs. -/
theorem pairPattern : Obligations.PairPattern := by
  intro e hhi hlo hne
  have hne' : e.lo.toNat ≠ e.hi.toNat := mt BitVec.eq_of_toNat_eq hne.symm
  refine ⟨?_, ?_, fun w hw hwhi hwlo => ?_, outputEnable_pairdec e hhi hlo hne, outputLevel_pairdec e hhi⟩
  · rw [pairdec_getElem? e _ hhi, if_pos rfl]
  · rw [pairdec_getElem? e _ hlo, if_neg hne', if_pos rfl]
  · rw [pairdec_getElem? e w hw, if_neg hwhi, if_neg hwlo]

/-- What it is for the LED of an entry to be lit (R24). -/
theorem isLit_of_entry (T : Topo) (p : Pattern) (k : Nat) (e : Entry) (h : T.entry k = some e) :
    isLit T p k = true ↔ p[e.hi.toNat]? = some .H ∧ p[e.lo.toNat]? = some .L := by
  simp [isLit, h]

/-- The lit LEDs are those with an entry whose wires are driven so (R24). -/
theorem mem_lit (T : Topo) (p : Pattern) (k : Nat) :
    k ∈ lit T p ↔ ∃ e, T.entry k = some e ∧ p[e.hi.toNat]? = some .H ∧ p[e.lo.toNat]? = some .L := by
  rw [lit, List.mem_filter, mem_ledIds]
  constructor
  · rintro ⟨hk, hlit⟩
    have he := entry_of_valid T k hk
    exact ⟨_, he, (isLit_of_entry T p k _ he).mp hlit⟩
  · rintro ⟨e, he, hlit⟩
    exact ⟨valid_of_entry T k e he, (isLit_of_entry T p k e he).mpr hlit⟩

/-- The high wire of a pair's pattern is the first of the pair, and no other (R79). -/
theorem pairdec_high_iff (e : Entry) (w : Nat) (hw : w < 5) : (pairdec e)[w]? = some .H ↔ w = e.hi.toNat := by
  rw [pairdec_getElem? e w hw]
  split <;> [simp_all; split <;> simp_all]

/-- The low wire of a pair's pattern is the second of the pair, and no other (R79). -/
theorem pairdec_low_iff (e : Entry) (hne : e.hi ≠ e.lo) (w : Nat) (hw : w < 5) :
    (pairdec e)[w]? = some .L ↔ w = e.lo.toNat := by
  have hne' : e.hi.toNat ≠ e.lo.toNat := mt BitVec.eq_of_toNat_eq hne
  rw [pairdec_getElem? e w hw]
  split <;> [simp_all; split <;> simp_all]

/-- The pattern of a pair drives no other pair (R79). -/
theorem pairdec_drives_iff (e d : Entry) (hhi : d.hi.toNat < 5) (hlo : d.lo.toNat < 5) (hne : e.hi ≠ e.lo) :
    (pairdec e)[d.hi.toNat]? = some .H ∧ (pairdec e)[d.lo.toNat]? = some .L ↔ d = e := by
  rw [pairdec_high_iff e _ hhi, pairdec_low_iff e hne _ hlo, BitVec.toNat_inj, BitVec.toNat_inj]
  obtain ⟨hi, lo⟩ := e
  obtain ⟨hi', lo'⟩ := d
  simp

/-- The pattern of an identifier with its entry (R23). -/
theorem pattern_of_entry (T : Topo) (k : Nat) (e : Entry) (h : T.entry k = some e) : T.pattern k = pairdec e := by
  rw [← selectedPattern_entry, h]
  rfl

/-- The pattern of an identifier lights that identifier and no other. -/
theorem mem_lit_pattern (T : Topo) (k j : Nat) (hk : 1 ≤ k ∧ k ≤ 20) : j ∈ lit T (T.pattern k) ↔ j = k := by
  have he := entry_of_valid T k hk
  obtain ⟨-, -, hne⟩ := entry_wires T k _ he
  rw [mem_lit, pattern_of_entry T k _ he]
  constructor
  · rintro ⟨d, hd, hdrives⟩
    obtain ⟨hhi, hlo, -⟩ := entry_wires T j d hd
    rw [pairdec_drives_iff _ d hhi hlo hne] at hdrives
    exact entry_inj T j k _ hd (hdrives ▸ he)
  · rintro rfl
    obtain ⟨hhi, hlo, -⟩ := entry_wires T j _ he
    exact ⟨_, he, (pairdec_drives_iff _ _ hhi hlo hne).mpr rfl⟩

/-- No LED stands twice in the lit set. -/
theorem lit_nodup (T : Topo) (p : Pattern) : (lit T p).Nodup := List.Nodup.filter _ (by decide)

/-- In every table the pattern of an LED lights exactly that LED. -/
theorem lit_pattern (T : Topo) (k : Nat) (hk : 1 ≤ k ∧ k ≤ 20) : lit T (T.pattern k) = [k] := by
  have hmem : ∀ j, j ∈ lit T (T.pattern k) ↔ j ∈ [k] := by simp [mem_lit_pattern T k _ hk]
  exact List.perm_singleton.mp ((List.perm_ext_iff_of_nodup (lit_nodup T _) (List.nodup_singleton k)).mpr hmem)

/-- Settles O30: an entry's pattern drives that entry's pair and no other, and no other LED has that entry. -/
theorem patternLightsItsLed : Obligations.PatternLightsItsLed :=
  fun T k hpos hle => lit_pattern T k ⟨hpos, hle⟩

/-- The two pins of a wire tell its three states apart (R57). -/
theorem wireState_eq_of_pins (x y : WireState) (henable : x = .Z ↔ y = .Z) (hlevel : x = .H ↔ y = .H) : x = y := by
  cases x <;> cases y <;> simp_all

/-- The pins determine the pattern (R57). -/
theorem pattern_eq_of_pins (p q : Pattern) (henable : outputEnable p = outputEnable q)
    (hlevel : outputLevel p = outputLevel q) : p = q := by
  refine pattern_ext p q fun i => wireState_eq_of_pins p[i] q[i] ?_ ?_
  · have hi := congrArg (fun b : BitVec 5 => b.getLsbD i) henable
    simpa only [outputEnable_getLsbD, decide_eq_decide, not_iff_not, ne_eq] using hi
  · have hi := congrArg (fun b : BitVec 5 => b.getLsbD i) hlevel
    simpa only [outputLevel_getLsbD, decide_eq_decide] using hi

/-- Settles O29: each wire's two pins give its state, and a pattern gives the one LED it lights. -/
theorem pinsIdentifyTheLed : Obligations.PinsIdentifyTheLed := by
  refine ⟨pattern_eq_of_pins, fun T j k hj hj' hk hk' h => ?_⟩
  have hlit : [j] = [k] := by rw [← lit_pattern T j ⟨hj, hj'⟩, h, lit_pattern T k ⟨hk, hk'⟩]
  exact List.head_eq_of_cons_eq hlit

/-- The number of wires in a state is the size of the set of their numbers. -/
theorem countState_eq_card (x : WireState) (p : Pattern) :
    countState x p = (Finset.univ.filter fun w : Fin 5 => p[w] = x).card := by
  have hcard := Fin.card_filter_univ_eq_vector_get_eq_count x (⟨p.toList, by simp⟩ : List.Vector WireState 5)
  rw [countState, ← List.countP_eq_length_filter]
  exact hcard.symm

/-- The entry of a pair of wire numbers: the wire to drive high and the wire to drive low. -/
def entryOfWires (q : Fin 5 × Fin 5) : Entry := ⟨BitVec.ofNat 3 q.1, BitVec.ofNat 3 q.2⟩

@[simp] theorem entryOfWires_hi (q : Fin 5 × Fin 5) : (entryOfWires q).hi.toNat = q.1 := by
  revert q; decide

@[simp] theorem entryOfWires_lo (q : Fin 5 × Fin 5) : (entryOfWires q).lo.toNat = q.2 := by
  revert q; decide

/-- Different pairs of wire numbers are different entries. -/
theorem entryOfWires_injective : Function.Injective entryOfWires := by
  intro q r h
  have hhi : (q.1 : Nat) = r.1 := by simpa using congrArg (fun e => e.hi.toNat) h
  have hlo : (q.2 : Nat) = r.2 := by simpa using congrArg (fun e => e.lo.toNat) h
  exact Prod.ext (Fin.ext hhi) (Fin.ext hlo)

/-- Every entry of a table is the entry of two wire numbers. -/
theorem exists_entryOfWires (e : Entry) (hhi : e.hi.toNat < 5) (hlo : e.lo.toNat < 5) : ∃ q, entryOfWires q = e :=
  ⟨(⟨e.hi.toNat, hhi⟩, ⟨e.lo.toNat, hlo⟩), by simp [entryOfWires]⟩

/-- The pairs of a wire in H and a wire in L. -/
def drivenPairs (p : Pattern) : Finset (Fin 5 × Fin 5) :=
  (Finset.univ.filter fun w => p[w] = .H) ×ˢ (Finset.univ.filter fun w => p[w] = .L)

theorem mem_drivenPairs (p : Pattern) (q : Fin 5 × Fin 5) : q ∈ drivenPairs p ↔ p[q.1] = .H ∧ p[q.2] = .L := by
  simp [drivenPairs]

/-- A lit LED is one whose entry is a driven pair (R24). -/
theorem mem_lit_iff_drivenPair (T : Topo) (p : Pattern) (k : Nat) :
    k ∈ lit T p ↔ ∃ q ∈ drivenPairs p, T.entry k = some (entryOfWires q) := by
  rw [mem_lit]
  constructor
  · rintro ⟨e, he, hhigh, hlow⟩
    obtain ⟨hhi, hlo, -⟩ := entry_wires T k e he
    obtain ⟨q, rfl⟩ := exists_entryOfWires e hhi hlo
    refine ⟨q, (mem_drivenPairs p q).mpr ?_, he⟩
    simpa using And.intro hhigh hlow
  · rintro ⟨q, hq, he⟩
    exact ⟨_, he, by simpa [mem_drivenPairs] using hq⟩

/-- A driven pair has two different wires, so it is the entry of an LED. -/
theorem exists_led_of_drivenPair (T : Topo) (p : Pattern) (q : Fin 5 × Fin 5) (h : q ∈ drivenPairs p) :
    ∃ k, T.entry k = some (entryOfWires q) := by
  obtain ⟨i, j⟩ := q
  obtain ⟨hhigh, hlow⟩ := (mem_drivenPairs p (i, j)).mp h
  refine exists_entry T _ (by simp) (by simp) fun hsame => ?_
  have hwire : (i : Nat) = j := by simpa using congrArg BitVec.toNat hsame
  obtain rfl : i = j := Fin.ext hwire
  cases hhigh.symm.trans hlow

/-- The lit LEDs are as many as the driven pairs: the table is a bijection between them. -/
theorem length_lit_eq_card (T : Topo) (p : Pattern) : (lit T p).length = (drivenPairs p).card := by
  rw [← List.toFinset_card_of_nodup (lit_nodup T p)]
  have hentry : ∀ q ∈ drivenPairs p, T.entry ((T.led (entryOfWires q)).getD 0) = some (entryOfWires q) := by
    intro q hq
    obtain ⟨k, hk⟩ := exists_led_of_drivenPair T p q hq
    rw [led_of_entry T k _ hk]
    exact hk
  refine (Finset.card_bij (fun q _ => (T.led (entryOfWires q)).getD 0) (fun q hq => ?_) (fun q hq r hr hqr => ?_)
    fun k hk => ?_).symm
  · exact List.mem_toFinset.mpr ((mem_lit_iff_drivenPair T p _).mpr ⟨q, hq, hentry q hq⟩)
  · have hsame := (hentry q hq).symm.trans (hqr ▸ hentry r hr)
    exact entryOfWires_injective (Option.some.inj hsame)
  · obtain ⟨q, hq, hk⟩ := (mem_lit_iff_drivenPair T p k).mp (List.mem_toFinset.mp hk)
    exact ⟨q, hq, entry_inj T _ k _ (hentry q hq) hk⟩

/-- Settles O31: the driven pairs are a product of the wires in H and the wires in L. -/
theorem litCountsDrivenPairs : Obligations.LitCountsDrivenPairs := by
  intro T p
  rw [length_lit_eq_card, drivenPairs, Finset.card_product, countState_eq_card, countState_eq_card]

end Sys2Proof.Machine
end

section
/-!
PROOFS. The legal patterns, and what is lit after each command of a tick (10_state.md section 5).
-/

namespace Sys2Proof.Machine

/-- A selection of an admissible table: nothing, or the entry of an LED. -/
def selectable (T : Topo) (sel : Option Entry) : Prop := ∀ e, sel = some e → ∃ k, T.entry k = some e

/-- SELECT answers a selection of the table (R87). -/
theorem select_selectable (T : Topo) (s : State) (sel : Option Entry) (h : select T s = .ok sel) : selectable T sel :=
  fun e he => select_entry T s e (he ▸ h)

/-- A selected entry has two different wires (R75). -/
theorem selectable_wires (T : Topo) (sel : Option Entry) (h : selectable T sel) (e : Entry) (he : sel = some e) :
    e.hi.toNat < 5 ∧ e.lo.toNat < 5 ∧ e.hi ≠ e.lo := by
  obtain ⟨k, hk⟩ := h e he
  exact entry_wires T k e hk

/-- A selection's commands name wires of the driver's domain (R93). -/
theorem selectable_trace_wire_lt (T : Topo) (sel : Option Entry) (h : selectable T sel) (c : WireCmd)
    (hc : c ∈ tickTrace sel) : c.wire.toNat < 5 := by
  refine tickTrace_wire_lt sel (fun e he => ?_) c hc
  obtain ⟨hhi, hlo, -⟩ := selectable_wires T sel h e he
  exact ⟨hhi, hlo⟩

/-- The legal patterns are those a tick can leave (R23). -/
theorem legal_iff (T : Topo) (p : Pattern) : legal T p = true ↔ ∃ sel, selectable T sel ∧ p = selectedPattern sel := by
  have hdef : legal T p = true ↔ p = allZ ∨ ∃ k, (1 ≤ k ∧ k ≤ 20) ∧ p = T.pattern k := by
    simp [legal, List.any_eq_true]
  rw [hdef]
  constructor
  · rintro (rfl | ⟨k, hk, rfl⟩)
    · exact ⟨none, by simp [selectable], rfl⟩
    · exact ⟨T.entry k, fun e he => ⟨k, he⟩, (selectedPattern_entry T k).symm⟩
  · rintro ⟨_ | e, hsel, rfl⟩
    · exact .inl rfl
    · obtain ⟨k, hk⟩ := hsel e rfl
      exact .inr ⟨k, valid_of_entry T k e hk, (pattern_of_entry T k e hk).symm⟩

/-- The pattern left for a selection is legal (R23). -/
theorem legal_selectedPattern (T : Topo) (sel : Option Entry) (h : selectable T sel) :
    legal T (selectedPattern sel) = true :=
  (legal_iff T _).mpr ⟨sel, h, rfl⟩

/-- The released pattern is legal (R23). -/
@[simp] theorem legal_allZ (T : Topo) : legal T allZ = true := by simp [legal]

/-- What is lit for a selection: nothing, or the one LED of its entry. -/
theorem lit_selectedPattern (T : Topo) (k : Nat) (e : Entry) (he : T.entry k = some e) (sel : Option Entry)
    (h : sel = none ∨ sel = some e) : lit T (selectedPattern sel) = if sel = some e then [k] else [] := by
  rcases h with rfl | rfl
  · exact lit_allZ T
  · rw [if_pos rfl, ← he, selectedPattern_entry]
    exact lit_pattern T k (valid_of_entry T k e he)

/-- Settles O51: a legal pattern is the one of a selection. -/
theorem legalLightsAtMostOne : Obligations.LegalLightsAtMostOne := by
  intro T p h
  obtain ⟨_ | e, hsel, rfl⟩ := (legal_iff T p).mp h
  · exact .inl ⟨lit_allZ T, rfl⟩
  · obtain ⟨k, hk⟩ := hsel e rfl
    obtain ⟨hpos, hle⟩ := valid_of_entry T k e hk
    refine .inr ⟨k, hpos, hle, (pattern_of_entry T k e hk).symm, ?_⟩
    simpa using lit_selectedPattern T k e hk (some e) (.inr rfl)

/-- A legal pattern lights at most one LED. -/
theorem length_lit_of_legal (T : Topo) (p : Pattern) (h : legal T p = true) : (lit T p).length ≤ 1 := by
  rcases legalLightsAtMostOne T p h with ⟨hlit, -⟩ | ⟨k, -, -, -, hlit⟩ <;> simp [hlit]

/-- Releasing a wire drives none. -/
theorem getElem?_of_release (p : Pattern) (w j : Nat) (x : WireState) (hw : w < 5) (hx : x ≠ .Z)
    (h : (p.set w .Z)[j]? = some x) : p[j]? = some x := by
  rw [Vector.getElem?_set] at h
  split at h
  · exact absurd (Option.some.inj h).symm hx
  · exact h

/-- Releasing a wire lights no LED. -/
theorem mem_lit_of_release (T : Topo) (p : Pattern) (w j : Nat) (hw : w < 5) (h : j ∈ lit T (p.set w .Z)) :
    j ∈ lit T p := by
  rw [mem_lit] at h ⊢
  obtain ⟨e, he, hhigh, hlow⟩ := h
  exact ⟨e, he, getElem?_of_release p w _ .H hw (by decide) hhigh, getElem?_of_release p w _ .L hw (by decide) hlow⟩

/-- Commands that have been performed: the first set its wire, and the others followed (R65, R69). -/
theorem performCmds_cons_inv (c : WireCmd) (l : List WireCmd) (p q : Pattern) (h : performCmds (c :: l) p = .ok q) :
    ∃ hc : c.wire.toNat < 5, performCmds l (p.set c.wire.toNat c.state) = .ok q := by
  by_cases hc : c.wire.toNat < 5
  · exact ⟨hc, performCmds_cons c l p hc ▸ h⟩
  · simp [performCmds, Nat.not_lt.mp hc] at h

/-- Commands that only release wires light no LED. -/
theorem mem_lit_of_releases (T : Topo) (l : List WireCmd) (p q : Pattern) (hl : ∀ c ∈ l, c.state = .Z)
    (h : performCmds l p = .ok q) (j : Nat) (hj : j ∈ lit T q) : j ∈ lit T p := by
  induction l generalizing p with
  | nil => exact Except.ok.inj h ▸ hj
  | cons c l ih =>
    obtain ⟨hc, hrest⟩ := performCmds_cons_inv c l p q h
    have hrelease := ih _ (fun d hd => hl d (.tail c hd)) hrest
    rw [hl c List.mem_cons_self] at hrelease
    exact mem_lit_of_release T p _ j hc hrelease

/-- After at most one command on the released pattern nothing is lit (R88). -/
theorem lit_of_one_command (T : Topo) (l : List WireCmd) (p : Pattern) (hl : l.length ≤ 1)
    (h : performCmds l allZ = .ok p) : lit T p = [] := by
  match l with
  | [] => exact Except.ok.inj h ▸ lit_allZ T
  | [c] =>
    obtain ⟨hc, hset⟩ := performCmds_cons_inv c [] allZ p h
    exact Except.ok.inj hset ▸ lit_set_allZ T c.wire.toNat c.state hc
  | _ :: _ :: _ => simp at hl

/-- From the last blanking command on, the old pattern is gone. -/
theorem performCmds_take_of_blanked (blank drive : List WireCmd) (hblank : blank.Perm blankCmds) (n : Nat) (hn : 5 ≤ n)
    (old : Pattern) : performCmds ((blank ++ drive).take n) old = performCmds (drive.take (n - 5)) allZ := by
  have hlen : blank.length = 5 := hblank.length_eq
  rw [List.take_append, List.take_of_length_le (by omega), hlen, performCmds_append,
    performCmds_of_perm_blank blank old hblank]

/-- The drive commands in either order leave the selected pattern (R88). -/
theorem performCmds_of_perm_driveCmds (T : Topo) (sel : Option Entry) (drive : List WireCmd) (hsel : selectable T sel)
    (h : drive.Perm (driveCmds sel)) : performCmds drive allZ = .ok (selectedPattern sel) := by
  cases sel with
  | none => rw [List.perm_nil.mp h]; rfl
  | some e =>
    obtain ⟨hhi, hlo, hne⟩ := selectable_wires T _ hsel e rfl
    exact performCmds_of_perm_drive e drive hhi hlo hne h

/-- DRIVE has at most two commands (R88). -/
theorem length_driveCmds (sel : Option Entry) : (driveCmds sel).length ≤ 2 := by
  cases sel <;> simp [driveCmds]

/-- Settles O52: up to the fifth command wires are only released, at the fifth all are, and one drive command alone lights
nothing. -/
theorem noGhostBetweenCommands : Obligations.NoGhostBetweenCommands := by
  intro T old p k e sel blank drive n _ he hsel hblank hdrive hn hp
  have hblankLen : blank.length = 5 := hblank.length_eq
  have hdriveLen : drive.length ≤ 2 := hdrive.length_eq ▸ length_driveCmds sel
  have hselectable : selectable T sel := by
    rintro d rfl
    rcases hsel with hsel | hsel
    · cases hsel
    · exact ⟨k, he.trans hsel.symm⟩
  rw [List.length_append, hblankLen] at hn ⊢
  refine ⟨fun hfew j hj => ?_, fun hmany hless => ?_, fun hall => ?_⟩
  · rw [List.take_append_of_le_length (by omega)] at hp
    have hstates : ∀ c ∈ blankCmds, c.state = .Z := by decide
    exact mem_lit_of_releases T _ old p (fun c hc => hstates c (hblank.mem_iff.mp (List.mem_of_mem_take hc))) hp j hj
  · rw [performCmds_take_of_blanked blank drive hblank n hmany] at hp
    exact lit_of_one_command T _ p (by rw [List.length_take]; omega) hp
  · rw [performCmds_take_of_blanked blank drive hblank n (by omega), List.take_of_length_le (by omega),
      performCmds_of_perm_driveCmds T sel drive hselectable hdrive] at hp
    rw [← Except.ok.inj hp]
    exact lit_selectedPattern T k e he sel hsel

end Sys2Proof.Machine
end

section
/-!
PROOFS. The invariants of every run (10_state.md R25 to R27): between operations at the event level, and in the middle of a
tick at the micro-step level.
-/

namespace Sys2Proof.Machine

/-- What holds between operations, taken apart. -/
theorem quiet_iff (s : State) :
    quiet s = true ↔ s.pending = [] ∧ s.cur.toNat < 5 ∧ legal topo s.wires = true := by
  simp [quiet, and_assoc]

/-- No operation leaves a Wire Driver command pending where there was none (R20). -/
theorem exec_keeps_no_pending (i : Instr) (s t : State) (hp : s.pending = []) (h : exec i s = .next t) :
    t.pending = [] := by
  obtain ⟨-, -, -, -, hpending, -⟩ := onlyOwnersWrite i s t h
  by_cases hreset : i = .reset
  · subst hreset
    exact Host.Outcome.next.inj h ▸ resetState_pending s
  · exact (hpending hreset).trans hp

/-- Every host operation leaves a legal pattern legal (R26). -/
theorem exec_keeps_legal (i : Instr) (s t : State) (hi : ∀ c, i ≠ instrOfCmd c) (hlegal : legal topo s.wires = true)
    (h : exec i s = .next t) : legal topo t.wires = true := by
  rcases exec_inv i s t h with ⟨-, rfl⟩ | ⟨-, sel, hsel, rfl⟩ | ⟨-, rfl⟩ | ⟨a, v, -, rfl⟩ | ⟨c, hc, -⟩
  · exact hlegal
  · exact legal_selectedPattern topo sel (select_selectable topo s sel hsel)
  · exact legal_allZ topo
  · rwa [writeReg_wires]
  · exact absurd hc (hi c)

/-- Every host operation keeps what holds between operations (R25, R26). -/
theorem exec_keeps_quiet (i : Instr) (s t : State) (hi : ∀ c, i ≠ instrOfCmd c) (hs : quiet s = true)
    (h : exec i s = .next t) : quiet t = true := by
  obtain ⟨hp, hcur, hlegal⟩ := (quiet_iff s).mp hs
  exact (quiet_iff t).mpr
    ⟨exec_keeps_no_pending i s t hp h, exec_keeps_cursorRange i s t hcur h, exec_keeps_legal i s t hi hlegal h⟩

/-- Between operations only host operations are fetched (R121). -/
theorem fetch_of_no_pending (s u : State) (i : Instr) (hp : s.pending = []) (h : fetch s = .ok (i, u)) :
    u.pending = [] ∧ ∀ c, i ≠ instrOfCmd c := by
  rcases fetch_inv s u i h with ⟨c, rest, -, hpend, -⟩ | ⟨-, w, rest, -, rfl, rfl⟩ | ⟨-, -, rfl, rfl⟩
  · cases hp.symm.trans hpend
  · exact ⟨hp, decodeHost_ne_instrOfCmd w⟩
  · exact ⟨hp, decodeHost_ne_instrOfCmd 0⟩

/-- Settles O49: the fetch takes a host operation and touches no register, and host operations keep the invariant. -/
theorem quietKept : Obligations.QuietKept := by
  intro s t hs h
  obtain ⟨hp, hcur, hlegal⟩ := (quiet_iff s).mp hs
  obtain ⟨i, u, hf, hexec⟩ := step_inv s t h
  obtain ⟨-, -, hucur, huwires⟩ := fetch_frame s u i hf
  obtain ⟨hup, hi⟩ := fetch_of_no_pending s u i hp hf
  exact exec_keeps_quiet i u t hi ((quiet_iff u).mpr ⟨hup, hucur ▸ hcur, huwires ▸ hlegal⟩) hexec

/-- A state between ticks with a legal pattern is at the end of a tick that has made this pattern. -/
theorem inTick_of_legal (T : Topo) (s : State) (hp : s.pending = []) (hlegal : legal T s.wires = true) : inTick T s := by
  obtain ⟨sel, hsel, hwires⟩ := (legal_iff T s.wires).mp hlegal
  refine ⟨allZ, sel, (tickTrace sel).length, legal_allZ T, hsel, le_rfl, by simp [hp], ?_⟩
  rw [List.take_length, hwires]
  exact performCmds_tickTrace sel allZ (selectable_wires T sel hsel)

/-- A state with the whole trace of a selection pending is at the beginning of a tick. -/
theorem inTick_of_trace (T : Topo) (s : State) (sel : Option Entry) (hsel : selectable T sel)
    (hp : s.pending = (tickTrace sel).map wordOfCmd) (hlegal : legal T s.wires = true) : inTick T s :=
  ⟨s.wires, sel, 0, hlegal, hsel, Nat.zero_le _, hp, rfl⟩

/-- One more command of a list performed. -/
theorem performCmds_take_succ (l : List WireCmd) (n : Nat) (hn : n < l.length) (p q : Pattern)
    (h : performCmds (l.take n) p = .ok q) (hc : l[n].wire.toNat < 5) :
    performCmds (l.take (n + 1)) p = .ok (q.set l[n].wire.toNat l[n].state) := by
  rw [List.take_succ_eq_append_getElem hn, performCmds_append, h]
  exact performCmds_cons l[n] [] q hc

/-- A state of the micro-step invariant is between ticks with a legal pattern, or the next command of its tick is pending and
leads to a state of the invariant again. -/
theorem inTick_cases (T : Topo) (s : State) (h : inTick T s) :
    (s.pending = [] ∧ legal T s.wires = true) ∨
      ∃ c rest, ∃ hc : c.wire.toNat < 5, s.pending = wordOfCmd c :: rest ∧
        inTick T { s with pending := rest, wires := s.wires.set c.wire.toNat c.state } := by
  obtain ⟨old, sel, n, hold, hsel, hn, hp, hwires⟩ := h
  rcases hn.lt_or_eq with hlt | rfl
  · have hc := selectable_trace_wire_lt T sel hsel _ (List.getElem_mem hlt)
    rw [List.drop_eq_getElem_cons hlt, List.map_cons] at hp
    exact .inr ⟨_, _, hc, hp, old, sel, n + 1, hold, hsel, hlt, rfl, performCmds_take_succ _ n hlt old _ hwires hc⟩
  · rw [List.take_length, performCmds_tickTrace sel old (selectable_wires T sel hsel)] at hwires
    refine .inl ⟨by simpa using hp, ?_⟩
    rw [← Except.ok.inj hwires]
    exact legal_selectedPattern T sel hsel

/-- The micro-step on a pending command performs it (R93). -/
theorem microStep_pending (s : State) (c : WireCmd) (rest : List WireWord) (hc : c.wire.toNat < 5)
    (hp : s.pending = wordOfCmd c :: rest) :
    microStep s = .next { s with pending := rest, wires := s.wires.set c.wire.toNat c.state } := by
  have hne : instrOfCmd c ≠ .tick := by
    obtain ⟨w, x⟩ := c
    cases x <;> simp [instrOfCmd]
  rw [microStep_of_fetch s _ _ (fetch_pending s c rest hc hp) hne, exec_instrOfCmd, driveWire_inDomain _ _ _ hc]

/-- Between ticks a micro-step keeps the micro-step invariant: it begins a tick or leaves a legal pattern. -/
theorem microStep_keeps_inTick_between (s t : State) (hp : s.pending = []) (hlegal : legal topo s.wires = true)
    (h : microStep s = .next t) : inTick topo t := by
  obtain ⟨i, u, hf, hcase⟩ := microStep_inv s t h
  obtain ⟨-, -, -, huwires⟩ := fetch_frame s u i hf
  obtain ⟨hup, hi⟩ := fetch_of_no_pending s u i hp hf
  have hulegal : legal topo u.wires = true := huwires ▸ hlegal
  rcases hcase with ⟨-, hstart⟩ | ⟨-, hexec⟩
  · obtain ⟨sel, hsel, rfl⟩ := startTick_inv topo u t hstart
    exact inTick_of_trace topo _ sel (select_selectable topo u sel hsel) (by simp [hup]) hulegal
  · exact inTick_of_legal topo t (exec_keeps_no_pending i u t hup hexec) (exec_keeps_legal i u t hi hulegal hexec)

/-- Settles O53: the pending command is one more of the same trace, and between ticks a new trace begins or the pattern stays
legal. -/
theorem tickInProgressKept : Obligations.TickInProgressKept := by
  intro s t hs h
  rcases inTick_cases topo s hs with ⟨hp, hlegal⟩ | ⟨c, rest, hc, hp, hnext⟩
  · exact microStep_keeps_inTick_between s t hp hlegal h
  · rw [microStep_pending s c rest hc hp] at h
    exact Host.Outcome.next.inj h ▸ hnext

/-- Settles O46: the operations by their class, and in the middle of a tick the pending command is one of its trace. -/
theorem everyOperationCompletes : Obligations.EveryOperationCompletes := by
  refine ⟨fun i s hi hcur => exec_completes i s hi ((cursorInRange_iff s).mp hcur), fun s hcur hs => ?_⟩
  rcases inTick_cases topo s hs with ⟨hp, -⟩ | ⟨c, rest, hc, hp, -⟩
  · exact microStep_completes s hp ((cursorInRange_iff s).mp hcur)
  · exact ⟨_, microStep_pending s c rest hc hp⟩

/-- Settles O50: the reset state has no tick in progress, the cursor 0 and every wire released. -/
theorem invariantsHoldAtReset : Obligations.InvariantsHoldAtReset :=
  ⟨(quiet_iff _).mpr ⟨reset_pending, by decide, legal_allZ topo⟩, by decide,
    inTick_of_legal topo State.reset reset_pending (legal_allZ topo)⟩

/-- Some LED's entry is the selection, or nothing is selected. -/
theorem exists_entry_of_selectable (T : Topo) (sel : Option Entry) (h : selectable T sel) :
    ∃ k e, T.entry k = some e ∧ (sel = none ∨ sel = some e) := by
  cases sel with
  | none => exact ⟨1, _, entry_of_valid T 1 (by decide), .inl rfl⟩
  | some e =>
    obtain ⟨k, hk⟩ := h e rfl
    exact ⟨k, e, hk, .inr rfl⟩

/-- Settles O54: while the blanking runs no more is lit than by the legal pattern before, then nothing, and at the end the
selected LED. -/
theorem tickInProgressLightsAtMostOne : Obligations.TickInProgressLightsAtMostOne := by
  rintro s ⟨old, sel, n, hold, hsel, hn, -, hwires⟩
  obtain ⟨k, e, he, hcase⟩ := exists_entry_of_selectable topo sel hsel
  obtain ⟨hblank, hdriving, hdone⟩ :=
    noGhostBetweenCommands topo old s.wires k e sel blankCmds (driveCmds sel) n hold he hcase (.refl _) (.refl _) hn hwires
  by_cases hfew : n ≤ 5
  · exact ((lit_nodup topo s.wires).subperm (hblank hfew)).length_le.trans (length_lit_of_legal topo old hold)
  · rcases hn.lt_or_eq with hlt | heq
    · simp [hdriving (by omega) hlt]
    · rw [hdone heq]
      split <;> simp

end Sys2Proof.Machine
end

section
/-!
PROOFS. The two levels of a tick (00_scope.md section 3, 42_multiplex_engine.md section 3): its trace word by word, and the
run of micro-steps that performs it.
-/

namespace Sys2Proof.Machine

/-- The words of the blanking commands (R86, R93). -/
theorem blankCmds_words : blankCmds.map wordOfCmd = [0x00, 0x04, 0x08, 0x0C, 0x10] := by decide

/-- The words of the drive commands of a pair (R88, R93). -/
theorem driveCmds_words (e : Entry) :
    (driveCmds (some e)).map wordOfCmd =
      [(e.hi.zeroExtend 5 <<< (2 : Nat)) + 3, (e.lo.zeroExtend 5 <<< (2 : Nat)) + 2] := by
  have hword : ∀ w x, wordOfCmd ⟨w, x⟩ = (w.zeroExtend 5 <<< 2) + x.code.zeroExtend 5 := fun w x =>
    wireWord_eq_shift_add w x.code
  rw [driveCmds, List.map_cons, List.map_singleton, hword, hword]
  rfl

/-- SELECT reads the registers alone, whatever is pending or presented (R87). -/
theorem select_congr (T : Topo) (s s' : State) (hfb : s'.fb = s.fb) (hac : s'.ac = s.ac) (hcur : s'.cur = s.cur) :
    select T s' = select T s := by
  unfold select readSlot
  rw [hfb, hac, hcur]

/-- Settles O40: the words of the two parts of the trace, the effect of each command, and the micro-step that issues it. -/
theorem tickCommandTrace : Obligations.TickCommandTrace := by
  refine fun T s sel hsel => ⟨?_, ?_, fun c hc => ?_, ?_⟩
  · rintro rfl
    exact blankCmds_words
  · rintro e rfl
    rw [tickTrace, List.map_append, blankCmds_words, driveCmds_words]
    rfl
  · have hwire := selectable_trace_wire_lt T sel (select_selectable T s sel hsel) c hc
    refine ⟨decodeWire_wordOfCmd c hwire, fun u => ?_⟩
    obtain ⟨v, hv, hframe, -, hothers, -⟩ := driveWire_effect c.wire c.state u hwire
    exact ⟨v, (exec_instrOfCmd c u).trans hv, hframe, hothers⟩
  · rintro rfl
    have hf : fetch (present (.host 0x0800) s) = .ok (.tick, { s with pending := [] }) := rfl
    have hstart := startTick_of_select topo { s with pending := [] } sel (select_congr topo s _ rfl rfl rfl ▸ hsel)
    exact ⟨_, (microStep_of_fetch_tick _ _ hf).trans hstart, rfl, rfl⟩

/-- A run of micro-steps goes on from where its first one completes. -/
theorem microRun_succ_of_next (n : Nat) (s t : State) (h : microStep s = .next t) :
    microRun (n + 1) s = microRun n t := by
  simp [microRun, h]

/-- As many micro-steps as there are pending commands perform them all (R93). -/
theorem microRun_pending (l : List WireCmd) (s : State) (q : Pattern) (hp : s.pending = l.map wordOfCmd)
    (h : performCmds l s.wires = .ok q) : microRun l.length s = .next { s with pending := [], wires := q } := by
  induction l generalizing s with
  | nil =>
    obtain ⟨fb, ac, cur, wires, pending, port⟩ := s
    obtain rfl : pending = [] := hp
    obtain rfl : wires = q := Except.ok.inj h
    rfl
  | cons c l ih =>
    obtain ⟨hc, hrest⟩ := performCmds_cons_inv c l s.wires q h
    rw [List.length_cons, microRun_succ_of_next _ s _ (microStep_pending s c (l.map wordOfCmd) hc hp)]
    exact ih _ rfl hrest

/-- One micro-step for the TICK word and one for each command of its trace do what the whole TICK does (R7, R93). -/
theorem microRun_tick (s u : State) (sel : Option Entry) (hp : u.pending = []) (hf : fetch s = .ok (.tick, u))
    (hsel : select topo u = .ok sel) : microRun ((tickTrace sel).length + 1) s = exec .tick u := by
  have hstart := (microStep_of_fetch_tick s u hf).trans (startTick_of_select topo u sel hsel)
  have hwires := performCmds_tickTrace sel u.wires (selectable_wires topo sel (select_selectable topo u sel hsel))
  have htick : exec .tick u = _ := tick_of_select topo u sel hsel
  rw [microRun_succ_of_next _ s _ hstart, htick, hp]
  exact microRun_pending (tickTrace sel) _ (selectedPattern sel) rfl hwires

/-- Where the operation fetched is no TICK, a run of one micro-step is a step. -/
theorem microRun_one (s t u : State) (i : Instr) (hf : fetch s = .ok (i, u)) (hi : i ≠ .tick) (h : step s = .next t) :
    microRun 1 s = .next t := by
  rw [step_of_fetch s u i hf, ← microStep_of_fetch s u i hf hi] at h
  exact microRun_succ_of_next 0 s t h

/-- Settles O55: a TICK's trace has five commands, or seven, and any other word is one micro-step. -/
theorem microStepsRefineTheStep : Obligations.MicroStepsRefineTheStep := by
  intro s t hp h
  refine ⟨fun hother => ?_, fun w rest ho htick => ?_⟩
  · cases ho : s.port with
    | nil => exact microRun_one s t s .idle (fetch_nothing s hp ho) (by simp) h
    | cons w rest => exact microRun_one s t _ _ (fetch_port s w rest hp ho) (hother w rest ho) h
  · have hf := htick ▸ fetch_port s w rest hp ho
    have hstep : exec .tick { s with port := rest } = .next t := (step_of_fetch s _ _ hf).symm.trans h
    have hrun : ∀ sel, select topo s = .ok sel → microRun ((tickTrace sel).length + 1) s = .next t := fun sel hsel =>
      (microRun_tick s { s with port := rest } sel hp hf (select_congr topo s _ rfl rfl rfl ▸ hsel)).trans hstep
    exact ⟨hrun none, fun e => hrun (some e)⟩

end Sys2Proof.Machine
end

section
/-!
PROOFS. Sequences of ticks (42_multiplex_engine.md sections 4 and 5) and of writes and ticks (20_memory.md section 3).
-/

namespace Sys2Proof.Machine

/-- What is lit where an identifier is shown under a condition (R23, R24). -/
theorem lit_of_shown (c : Prop) [Decidable c] (k : Nat) (p : Pattern)
    (h : p = if c ∧ 1 ≤ k ∧ k ≤ 20 then topo.pattern k else allZ) :
    lit topo p = if c ∧ 1 ≤ k ∧ k ≤ 20 then [k] else [] := by
  subst h
  split
  next hshown =>
    obtain ⟨-, hk⟩ := hshown
    exact lit_pattern topo k hk
  next => exact lit_allZ topo

/-- All that TICK does with the cursor in its range: it shows the byte under the cursor if the slot is active and the byte an
identifier, and advances the cursor (R85). -/
theorem exec_tick_shows (s : State) (hcur : s.cur.toNat < 5) :
    ∃ t, exec .tick s = .next t ∧ t = { s with wires := t.wires, cur := t.cur } ∧
      t.cur.toNat = (s.cur.toNat + 1) % effectiveDivisor s.ac ∧
      t.wires = if s.cur.toNat < s.ac.toNat ∧ 1 ≤ s.fb[s.cur.toNat].toNat ∧ s.fb[s.cur.toNat].toNat ≤ 20 then
        topo.pattern s.fb[s.cur.toNat].toNat else allZ := by
  obtain ⟨-, hnet⟩ := tickNetEffect
  obtain ⟨t, htick, hframe, hshown, hdark, -⟩ := hnet s hcur
  obtain ⟨hadvance, -⟩ := tickAdvancesTheCursor
  obtain ⟨hnext, -⟩ := hadvance s t htick
  refine ⟨t, htick, hframe, hnext, ?_⟩
  split
  next h =>
    obtain ⟨hactive, hpos, hle⟩ := h
    exact hshown _ hactive rfl hpos hle
  next h => exact hdark h

/-- A sequence of one operation is that operation. -/
theorem execList_singleton (i : Instr) (s t : State) (h : exec i s = .next t) : execList [i] s = .next t :=
  execList_cons_of_next i [] s t h

/-- Settles O45: the TICK after the write shows what the written registers hold. -/
theorem nextTickSeesTheWrite : Obligations.NextTickSeesTheWrite := by
  refine ⟨fun i v s hcur => ?_, fun v s hcur => ?_⟩
  · obtain ⟨t, htick, -, -, hwires⟩ := exec_tick_shows { s with fb := s.fb.set i v } hcur
    refine ⟨t, (s.fb.set i v)[s.cur.toNat], ?_, Vector.getElem?_eq_getElem hcur, fun hslot => ?_, hwires,
      lit_of_shown _ _ _ hwires⟩
    · rw [execList_cons_of_next _ _ s _ (exec_slotWrite i v s)]
      exact execList_singleton .tick _ t htick
    · simp [hslot]
  · obtain ⟨t, htick, -, hnext, hwires⟩ := exec_tick_shows { s with ac := v } hcur
    refine ⟨t, s.fb[s.cur.toNat], ?_, Vector.getElem?_eq_getElem hcur, hwires, lit_of_shown _ _ _ hwires, hnext⟩
    obtain ⟨-, hwrite⟩ := countWriteSetsTheCount v s
    rw [execList_cons_of_next _ _ s _ hwrite]
    exact execList_singleton .tick _ t htick

/-- After one TICK with the count in range the cursor is below the count (R90, R95). -/
theorem exec_tick_cursor_below (s : State) (hcur : s.cur.toNat < 5) (hpos : 1 ≤ s.ac.toNat) (hle : s.ac.toNat ≤ 5) :
    ∃ t, exec .tick s = .next t ∧ t.fb = s.fb ∧ t.ac = s.ac ∧ t.cur.toNat < t.ac.toNat := by
  obtain ⟨t, htick, hframe, hnext, -⟩ := exec_tick_shows s hcur
  have hac : t.ac = s.ac := by rw [hframe]
  rw [effectiveDivisor_inRange s.ac hpos hle] at hnext
  exact ⟨t, htick, by rw [hframe], hac, by rw [hnext, hac]; exact Nat.mod_lt _ hpos⟩

/-- Ticks with the count in range keep what the host wrote, and the cursor is below the count after the first of them. -/
theorem execList_ticks_cursor (n : Nat) (s : State) (hcur : s.cur.toNat < 5) (hpos : 1 ≤ s.ac.toNat)
    (hle : s.ac.toNat ≤ 5) :
    ∃ t, execList (ticks n) s = .next t ∧ t.fb = s.fb ∧ t.ac = s.ac ∧ t.cur.toNat < 5 ∧
      (t.cur.toNat < t.ac.toNat ↔ n ≠ 0 ∨ s.cur.toNat < s.ac.toNat) := by
  induction n generalizing s with
  | zero => exact ⟨s, rfl, rfl, rfl, hcur, by simp⟩
  | succ n ih =>
    obtain ⟨u, htick, hfb, hac, hbelow⟩ := exec_tick_cursor_below s hcur hpos hle
    obtain ⟨t, hticks, htfb, htac, htcur, htbelow⟩ := ih u (exec_keeps_cursorRange .tick s u hcur htick) (hac ▸ hpos) (hac ▸ hle)
    exact ⟨t, (execList_cons_of_next .tick (ticks n) s u htick).trans hticks, htfb.trans hfb, htac.trans hac, htcur,
      by simp [htbelow, hbelow]⟩

/-- Settles O42: the dark tick's cursor is a remainder by the count, and so is every later one. -/
theorem cursorAboveCountIsDarkOnce : Obligations.CursorAboveCountIsDarkOnce := by
  refine fun s hcur hpos hle => ⟨fun habove => ?_, fun n => ?_⟩
  · have hnext := nextCursor_toNat s.cur s.ac
    rw [effectiveDivisor_inRange s.ac hpos hle] at hnext
    refine ⟨_, exec_tick_above_count s (by omega), rfl, rfl, hnext, ?_⟩
    exact hnext.trans_lt (Nat.mod_lt _ hpos)
  · obtain ⟨t, hticks, -, hac, -, hbelow⟩ := execList_ticks_cursor (n + 1) s hcur hpos hle
    exact ⟨t, hticks, hac, hbelow.mpr (.inl (by omega))⟩

/-- With the count in range and the cursor below it, one TICK shows the slot under the cursor (R85, R90). -/
theorem exec_tick_steady (s : State) (hpos : 1 ≤ s.ac.toNat) (hle : s.ac.toNat ≤ 5) (hbelow : s.cur.toNat < s.ac.toNat) :
    ∃ t v, exec .tick s = .next t ∧ t = { s with wires := t.wires, cur := t.cur } ∧ s.fb[s.cur.toNat]? = some v ∧
      t.cur.toNat = (s.cur.toNat + 1) % s.ac.toNat ∧
      (t.wires = if 1 ≤ v.toNat ∧ v.toNat ≤ 20 then topo.pattern v.toNat else allZ) ∧
      lit topo t.wires = if 1 ≤ v.toNat ∧ v.toNat ≤ 20 then [v.toNat] else [] := by
  have hcur : s.cur.toNat < 5 := by omega
  obtain ⟨t, htick, hframe, hnext, hwires⟩ := exec_tick_shows s hcur
  have hlit := lit_of_shown _ _ _ hwires
  rw [effectiveDivisor_inRange s.ac hpos hle] at hnext
  simp only [hbelow, true_and] at hwires hlit
  exact ⟨t, _, htick, hframe, Vector.getElem?_eq_getElem hcur, hnext, hwires, hlit⟩

/-- Settles O56, by induction on the number of ticks: the first tick shows the slot under the cursor, and the others start
from the next slot. -/
theorem steadyDisplay : Obligations.SteadyDisplay := by
  intro s r hpos hle hbelow
  induction r generalizing s with
  | zero =>
    obtain ⟨t, v, htick, hframe, hslot, hrest⟩ := exec_tick_steady s hpos hle hbelow
    refine ⟨t, v, execList_singleton .tick s t htick, hframe, ?_, hrest⟩
    rwa [Nat.add_zero, Nat.mod_eq_of_lt hbelow]
  | succ r ih =>
    obtain ⟨u, -, htick, hframe, -, hnext, -⟩ := exec_tick_steady s hpos hle hbelow
    have hac : u.ac = s.ac := by rw [hframe]
    have hubelow : u.cur.toNat < u.ac.toNat := by rw [hnext, hac]; exact Nat.mod_lt _ hpos
    obtain ⟨t, v, hticks, htframe, hslot, htnext, hwires, hlit⟩ := ih u (hac ▸ hpos) (hac ▸ hle) hubelow
    rw [hac, hnext] at hslot htnext
    refine ⟨t, v, (execList_cons_of_next .tick (ticks (r + 1)) s u htick).trans hticks, ?_, ?_, ?_, hwires, hlit⟩
    · rw [htframe, hframe]
    · rw [Nat.mod_add_mod, hframe] at hslot
      rw [← hslot]
      congr 2
      omega
    · rw [htnext, Nat.add_assoc, Nat.mod_add_mod]
      congr 1
      omega

end Sys2Proof.Machine
end

section
/-!
PROOFS. Publications (43_host_port.md section 3): what is shown while a frame is being written, with ticks anywhere among its
writes, and what is shown afterwards.
-/

namespace Sys2Proof.Machine

/-- A sequence that completes has completed its first operation, and then the others. -/
theorem execList_cons_inv (i : Instr) (l : List Instr) (s t : State) (h : execList (i :: l) s = .next t) :
    ∃ u, exec i s = .next u ∧ execList l u = .next t := by
  cases hi : exec i s with
  | next u => exact ⟨u, rfl, execList_cons_of_next i l s u hi ▸ h⟩
  | fault r => simp [execList, hi] at h
  | refused r => simp [execList, hi] at h

/-- A sequence goes on from where its first part completes. -/
theorem execList_append_of_next (l m : List Instr) (s u : State) (h : execList l s = .next u) :
    execList (l ++ m) s = execList m u := by
  induction l generalizing s with
  | nil => rw [Host.Outcome.next.inj h]; rfl
  | cons i l ih =>
    obtain ⟨v, hi, hrest⟩ := execList_cons_inv i l s u h
    rw [List.cons_append, execList_cons_of_next i _ s v hi]
    exact ih v hrest

/-- What every operation of a sequence keeps, the sequence keeps. -/
theorem execList_keeps (P : State → Prop) (l : List Instr)
    (hkeep : ∀ i ∈ l, ∀ s t, P s → exec i s = .next t → P t) (s t : State) (hs : P s) (h : execList l s = .next t) :
    P t := by
  induction l generalizing s with
  | nil => exact Host.Outcome.next.inj h ▸ hs
  | cons i l ih =>
    obtain ⟨u, hi, hrest⟩ := execList_cons_inv i l s t h
    exact ih (fun j hj => hkeep j (.tail i hj)) u (hkeep i List.mem_cons_self s u hs hi) hrest

/-- The operations of a publication: the slot writes of the frame, 0 beyond it, and the count's write (R64). -/
theorem mem_publish (vs : List Byte) (n : Byte) (i : Instr) (h : i ∈ publish vs n) :
    (∃ j : Fin 5, i = slotWrite j (vs.getD j 0)) ∨ i = .wrAc n := by
  simp only [publish, List.mem_cons, List.not_mem_nil, or_false] at h
  rcases h with rfl | rfl | rfl | rfl | rfl | rfl
  · exact .inl ⟨0, rfl⟩
  · exact .inl ⟨1, rfl⟩
  · exact .inl ⟨2, rfl⟩
  · exact .inl ⟨3, rfl⟩
  · exact .inl ⟨4, rfl⟩
  · exact .inr rfl

/-- Where the operations other than TICK are of a publication, every operation is TICK or of the publication. -/
theorem tick_or_mem_publish (l : List Instr) (vs : List Byte) (n : Byte)
    (h : (l.filter fun i => i ≠ .tick) ⊆ publish vs n) (i : Instr) (hi : i ∈ l) : i = .tick ∨ i ∈ publish vs n := by
  by_cases htick : i = .tick
  · exact .inl htick
  · exact .inr (h (List.mem_filter.mpr ⟨hi, by simpa using htick⟩))

/-- An element of a frame, or the 0 beyond it. -/
theorem getD_mem_or_zero (vs : List Byte) (j : Nat) : vs.getD j 0 ∈ vs ∨ vs.getD j 0 = 0 := by
  by_cases hj : j < vs.length
  · exact .inl (by simp [hj])
  · exact .inr (by simp [hj])

/-- The cursor is in range and every slot holds a byte of the old frame, a byte of the new one, or 0. -/
def holdsOldOrNew (old new : List Byte) (s : State) : Prop :=
  s.cur.toNat < 5 ∧ ∀ b ∈ s.fb.toList, b ∈ old ∨ b ∈ new ∨ b = 0

/-- Storing a byte of the new frame, or 0, leaves every slot with such a byte. -/
theorem holdsOldOrNew_slotWrite (old new : List Byte) (s t : State) (j : Fin 5) (v : Byte) (hv : v ∈ new ∨ v = 0)
    (hs : holdsOldOrNew old new s) (h : exec (slotWrite j v) s = .next t) : holdsOldOrNew old new t := by
  obtain ⟨hcur, hfb⟩ := hs
  rw [exec_slotWrite] at h
  obtain rfl := Host.Outcome.next.inj h
  refine ⟨hcur, fun b hb => ?_⟩
  rw [Vector.toList_set] at hb
  rcases List.mem_or_eq_of_mem_set hb with hb | rfl
  · exact hfb b hb
  · exact .inr hv

/-- The ticks and the writes of a publication leave every slot with a byte of the old or of the new frame, or 0. -/
theorem exec_keeps_holdsOldOrNew (old frame : List Byte) (n : Byte) (i : Instr) (hi : i = .tick ∨ i ∈ publish frame n)
    (s t : State) (hs : holdsOldOrNew old frame s) (h : exec i s = .next t) : holdsOldOrNew old frame t := by
  rcases hi with rfl | hi
  · obtain ⟨sel, -, rfl⟩ := exec_tick_inv s t h
    obtain ⟨-, hfb⟩ := hs
    exact ⟨nextCursor_lt s.cur s.ac, hfb⟩
  · rcases mem_publish frame n i hi with ⟨j, rfl⟩ | rfl
    · exact holdsOldOrNew_slotWrite old frame s t j _ (getD_mem_or_zero frame j) hs h
    · exact Host.Outcome.next.inj h ▸ hs

/-- A completed TICK leaves a legal pattern (R26). -/
theorem exec_tick_legal (s t : State) (h : exec .tick s = .next t) : legal topo t.wires = true := by
  obtain ⟨sel, hsel, rfl⟩ := exec_tick_inv s t h
  exact legal_selectedPattern topo sel (select_selectable topo s sel hsel)

/-- The one LED a TICK lights is the byte of the slot under the cursor. -/
theorem exec_tick_lit (s : State) (hcur : s.cur.toNat < 5) :
    ∃ t, exec .tick s = .next t ∧
      lit topo t.wires = if s.cur.toNat < s.ac.toNat ∧ 1 ≤ s.fb[s.cur.toNat].toNat ∧ s.fb[s.cur.toNat].toNat ≤ 20 then
        [s.fb[s.cur.toNat].toNat] else [] := by
  obtain ⟨t, htick, -, -, hwires⟩ := exec_tick_shows s hcur
  exact ⟨t, htick, lit_of_shown _ _ _ hwires⟩

/-- Settles O57: whatever part of the publication is written, a slot holds a byte of the old or the new frame, or 0, which
is no identifier. -/
theorem publishShowsOldOrNew : Obligations.PublishShowsOldOrNew := by
  intro frame l s t hs _ hpart hrun
  obtain ⟨-, hcur, -⟩ := (quiet_iff s).mp hs
  have hops := tick_or_mem_publish l frame (frameCount frame) hpart.subset
  obtain ⟨htcur, htfb⟩ : holdsOldOrNew s.fb.toList frame t :=
    execList_keeps _ l (fun i hi => exec_keeps_holdsOldOrNew s.fb.toList frame _ i (hops i hi)) s t
      ⟨hcur, fun b hb => .inl hb⟩ hrun
  obtain ⟨u, htick, hlit⟩ := exec_tick_lit t htcur
  refine ⟨u, htick, exec_tick_legal t u htick, fun k hk => ?_⟩
  rw [hlit] at hk ⊢
  split at hk
  next hshown =>
    obtain rfl := List.mem_singleton.mp hk
    rw [if_pos hshown, BitVec.ofNat_toNat, BitVec.setWidth_eq]
    refine ⟨rfl, ?_⟩
    rcases htfb _ (Vector.mem_toList_iff.mpr (Vector.getElem_mem htcur)) with hold | hnew | hzero
    · exact .inl hold
    · exact .inr hnew
    · simp [hzero] at hshown
  next => cases hk

/-- Writes do what they do without the ticks among them: no tick changes what the host wrote. -/
theorem execList_without_ticks (l : List Instr) (hl : ∀ i ∈ l, i = .tick ∨ ∃ a v, i = decodeWrite a v) (s s' t : State)
    (hagree : hostAgree s s') (h : execList l s = .next t) :
    ∃ t', execList (l.filter fun i => i ≠ .tick) s' = .next t' ∧ hostAgree t t' := by
  induction l generalizing s s' with
  | nil => exact ⟨s', rfl, Host.Outcome.next.inj h ▸ hagree⟩
  | cons i l ih =>
    obtain ⟨u, hi, hrest⟩ := execList_cons_inv i l s t h
    have ih := fun u' hu => ih (fun j hj => hl j (.tail i hj)) u u' hu hrest
    rcases hl i List.mem_cons_self with rfl | ⟨a, v, rfl⟩
    · obtain ⟨sel, -, rfl⟩ := exec_tick_inv s u hi
      simpa using ih s' hagree
    · obtain ⟨-, hne, -⟩ := decodeWrite_ne a v
      obtain ⟨t', hrun, ht⟩ := ih _ (exec_hostAgree _ s s' u _ hagree hi (exec_decodeWrite a v s'))
      refine ⟨t', ?_, ht⟩
      rw [List.filter_cons_of_pos (by simpa using hne)]
      exact (execList_cons_of_next _ _ s' _ (exec_decodeWrite a v s')).trans hrun

/-- The writes of a publication are host writes (R64). -/
theorem publish_isWrite (vs : List Byte) (n : Byte) (i : Instr) (h : i ∈ publish vs n) : ∃ a v, i = decodeWrite a v := by
  rcases mem_publish vs n i h with ⟨j, rfl⟩ | rfl
  · exact ⟨BitVec.ofNat 3 j.val, _, (decodeWrite_slot j _).symm⟩
  · exact ⟨5, n, rfl⟩

/-- The frame buffer a publication leaves: the frame, and 0 beyond it (R64). -/
def publishedSlots (vs : List Byte) : Vector Byte 5 := Vector.ofFn fun j => vs.getD j 0

/-- A publication with no tick among its writes leaves its frame and its count (R64). -/
theorem execList_publish (vs : List Byte) (n : Byte) (s : State) :
    execList (publish vs n) s = .next { s with fb := publishedSlots vs, ac := n } := by
  have hslots : ((((s.fb.set 0 (vs.getD 0 0)).set 1 (vs.getD 1 0)).set 2 (vs.getD 2 0)).set 3 (vs.getD 3 0)).set 4
      (vs.getD 4 0) = publishedSlots vs := by
    refine Vector.ext fun j hj => ?_
    interval_cases j <;> simp [publishedSlots]
  rw [← hslots]
  rfl

/-- The count of a frame of at most five bytes, as a number (R46). -/
theorem frameCount_toNat (frame : List Byte) (h : frame.length ≤ 5) : (frameCount frame).toNat = max 1 frame.length := by
  rw [frameCount, BitVec.toNat_ofNat]
  exact Nat.mod_eq_of_lt (by omega)

/-- A complete publication leaves its frame and its count, wherever the ticks fell among its writes. -/
theorem execList_publication (frame : List Byte) (l : List Instr) (s t : State) (hcur : s.cur.toNat < 5)
    (hl : (l.filter fun i => i ≠ .tick) = publishFrame frame) (h : execList l s = .next t) :
    t.cur.toNat < 5 ∧ t.fb = publishedSlots frame ∧ t.ac = frameCount frame := by
  have hops := tick_or_mem_publish l frame (frameCount frame) (hl ▸ List.Subset.refl _)
  obtain ⟨t', hrun, hfb, hac, -⟩ := execList_without_ticks l
    (fun i hi => (hops i hi).imp_right (publish_isWrite frame _ i)) s s t ⟨rfl, rfl, rfl⟩ h
  rw [hl] at hrun
  obtain rfl := Host.Outcome.next.inj (hrun.symm.trans (execList_publish frame (frameCount frame) s))
  exact ⟨execList_keeps (fun u => u.cur.toNat < 5) l (fun i _ u v hu hv => exec_keeps_cursorRange i u v hu hv) s t hcur h,
    hfb, hac⟩

/-- An active slot of a published frame with an LED holds an identifier of the frame. -/
theorem publishedSlots_active (frame : List Byte) (hne : frame ≠ []) (hlen : frame.length ≤ 5) (j : Nat) (hj : j < 5)
    (hactive : j < (frameCount frame).toNat) : (publishedSlots frame)[j] ∈ frame := by
  have hpos : 0 < frame.length := List.length_pos_iff.mpr hne
  rw [frameCount_toNat frame hlen] at hactive
  have hj' : j < frame.length := by omega
  simp [publishedSlots, hj']

/-- A slot of a published frame that holds an identifier holds one of the frame. -/
theorem publishedSlots_mem (frame : List Byte) (j : Nat) (hj : j < 5) (h : 1 ≤ (publishedSlots frame)[j].toNat) :
    (publishedSlots frame)[j] ∈ frame := by
  have hslot : (publishedSlots frame)[j] = frame.getD j 0 := Vector.getElem_ofFn hj
  rw [hslot] at h ⊢
  rcases getD_mem_or_zero frame j with hmem | hzero
  · exact hmem
  · exact absurd h (by rw [hzero]; decide)

/-- Settles O58: after the publication the registers hold the frame and its count, and a later tick is dark, where the frame
has an LED, exactly when its cursor is not below the count, which only the first tick's can be. -/
theorem publishedFrameIsShown : Obligations.PublishedFrameIsShown := by
  intro frame l s t r hs hlen hvalid hl hrun
  obtain ⟨-, hcur, -⟩ := (quiet_iff s).mp hs
  obtain ⟨htcur, htfb, htac⟩ := execList_publication frame l s t hcur hl hrun
  have hcount := frameCount_toNat frame hlen
  obtain ⟨v, hticks, hvfb, hvac, hvcur, hbelow⟩ :=
    execList_ticks_cursor r t htcur (by rw [htac]; omega) (by rw [htac]; omega)
  rw [hvac, htac] at hbelow
  obtain ⟨u, htick, hlit⟩ := exec_tick_lit v hvcur
  rw [hvac, htac] at hlit
  simp only [hvfb, htfb] at hlit
  refine ⟨u, ?_, ?_, fun hne => ?_⟩
  · rw [ticks, List.replicate_succ', ← ticks, execList_append_of_next _ _ t v hticks]
    exact execList_singleton .tick v u htick
  · rw [hlit]
    split
    next hshown =>
      obtain ⟨-, hpos, -⟩ := hshown
      exact .inr ⟨_, publishedSlots_mem frame _ hvcur hpos, rfl⟩
    next => exact .inl rfl
  · have hshown : v.cur.toNat < (frameCount frame).toNat →
        1 ≤ (publishedSlots frame)[v.cur.toNat].toNat ∧ (publishedSlots frame)[v.cur.toNat].toNat ≤ 20 :=
      fun hactive => hvalid _ (publishedSlots_active frame hne hlen _ hvcur hactive)
    have hdark : lit topo u.wires = [] ↔ ¬v.cur.toNat < (frameCount frame).toNat := by
      rw [hlit, ite_eq_right_iff, and_iff_left_of_imp hshown]
      simp
    rw [hdark, hbelow]
    omega

end Sys2Proof.Machine
end
